-- ==== Sys2Proof/Word.lean ====
section
/-! DEFINITION. The word types of the block (spec/10_state.md R21, spec/30_encoding.md R80, spec/00_scope.md R5, R7). -/

namespace Sys2Proof

/-- A register word: every register is 32 bits wide (R21, `REG_W` = 32). -/
abbrev Word := BitVec 32

/-- A 64-bit interface event word (R80). -/
abbrev EventWord := BitVec 64

/-- A byte offset in the 256-byte register window: the OFF field (R80). -/
abbrev Offset := BitVec 8

/-- A feedback sample: an unsigned value of `SAMPLE_W` = 12 bits (R5, R39). -/
abbrev Sample := BitVec 12

end Sys2Proof
end

