-- ==== Sys2Proof/Config.lean ====
section
/-! DEFINITION. What is fixed for the machine: the constants of spec/00_scope.md R5, the OPEN platform parameters, and the free values (which have no body, so that no proof can see them). -/

namespace Sys2Proof.Config

/-- `SHIFT_A` = 22 − 19 = 3, hardwired (R5, R107, R117). -/
def shiftA : Nat := 3

/-- `SHIFT_B` = 19 − 8 = 11, hardwired (R5, R107, R117). -/
def shiftB : Nat := 11

/-- `SHIFT_OUT` = 8, hardwired (R5, R107, R117). -/
def shiftOut : Nat := 8

/-- `FRAC_B` = 19: fractional bits of B0..B3 (R5). -/
def fracB : Nat := 19

/-- `FRAC_A` = 14: fractional bits of A1..A3 (R5). -/
def fracA : Nat := 14

/-- `FRAC_U` = 8: fractional bits of UPPER, UPPER_NEG and U0..U2 (R5). -/
def fracU : Nat := 8

/-- The size of the register window in bytes (R5 `WINDOW`, R60). -/
def windowBytes : Nat := 256

/-- OPEN: which 256-byte block of the host bus the window occupies (R5 `BASE`, R69; log 12). -/
opaque baseBlock : Nat

/-- `BASE`, the window's base address: any multiple of 256 (R60; log 12). -/
def base : Nat := windowBytes * baseBlock

/-- OPEN: `STEP_CYCLES` less one (R5, R231; log 21). -/
opaque stepCyclesLessOne : Nat

/-- `STEP_CYCLES` ≥ 1, the latency of a STEP in block clock cycles (R231; log 21). -/
def stepCycles : Nat := stepCyclesLessOne + 1

/-- Free value: what the FB port holds at the n-th draw, before any SAMPLE event (R186, R39; log 3, log 4). -/
opaque freeSample : Nat → Sample

/-- Free value: what a bus read inside the STEP window returns at the n-th draw (R226 item 2; log 4, log 13). -/
opaque freeWord : Nat → Word

end Sys2Proof.Config
end

