-- ==== Sys2Proof/Syntax.lean ====
section
/-! DEFINITION. The interface events as syntax: the named registers, the slots of the register window, and one constructor per instruction of spec/opcode_table.json (spec/30_encoding.md R88). -/

namespace Sys2Proof

/-- The data registers of R21, by name. -/
inductive DataReg where
  | b0 | b1 | b2 | b3
  | a1 | a2 | a3
  | ref | upper | upperNeg | lower
  | e0 | e1 | e2 | e3
  | u0 | u1 | u2
  | lastOut
deriving DecidableEq, Repr

/-- What stands at one of the 64 word slots of the window (R44): a control register, a data register, or a
reserved offset (R35). -/
inductive Slot where
  | cmd
  | status
  | shifts
  | data (r : DataReg)
  | reserved (off : Offset)
deriving DecidableEq, Repr

/-- The instructions of R88: every interface event the block knows. -/
inductive Instr where
  /-- RD: host read of one slot (R180). -/
  | rd (slot : Slot)
  /-- INIT: commit the configuration (R118). -/
  | init
  /-- STEP: one tick of the filter (R150). -/
  | step
  /-- CMD_RSVD: a reserved command word (R183). -/
  | cmdRsvd (data : Word)
  /-- WR_STATUS: host write to STATUS (R182). -/
  | wrStatus (data : Word)
  /-- WR_B0 (R111). -/
  | wrB0 (data : Word)
  /-- WR_B1 (R111). -/
  | wrB1 (data : Word)
  /-- WR_B2 (R111). -/
  | wrB2 (data : Word)
  /-- WR_B3 (R111). -/
  | wrB3 (data : Word)
  /-- WR_A1 (R111). -/
  | wrA1 (data : Word)
  /-- WR_A2 (R111). -/
  | wrA2 (data : Word)
  /-- WR_A3 (R111). -/
  | wrA3 (data : Word)
  /-- WR_REF (R111). -/
  | wrRef (data : Word)
  /-- WR_UPPER (R111). -/
  | wrUpper (data : Word)
  /-- WR_LOWER (R111). -/
  | wrLower (data : Word)
  /-- WR_RO: write to a read-only register (R184). -/
  | wrRo (slot : Slot) (data : Word)
  /-- WR_RSVD: write to a reserved offset (R184). -/
  | wrRsvd (off : Offset) (data : Word)
  /-- TRIG: one pulse of the TRIG input (R162). -/
  | trig
  /-- SAMPLE: the FB port takes a new value (R186). -/
  | sample (v : Sample)
  /-- RESET: reset the block (R220). -/
  | reset
deriving DecidableEq, Repr

end Sys2Proof
end

