-- ==== Sys2Proof/WellFormed.lean ====
section
/-! DEFINITION. Which terms of Instr are instructions of the spec: the side conditions of spec/30_encoding.md R83 and R84 on the operands. -/

namespace Sys2Proof

/-- The reserved offsets: 0x0C, 0x3C and the aligned ones from 0x60 to 0xFC (R35). -/
def isReservedOffset (off : Offset) : Bool :=
  off == 0x0C#8 || off == 0x3C#8 || (off.toNat % 4 == 0 && 0x60 ≤ off.toNat)

/-- A slot names an offset of the window: a `reserved` one carries a reserved offset (R35, R44). -/
def Slot.wellFormed : Slot → Bool
  | .reserved off => isReservedOffset off
  | .cmd | .status | .shifts | .data _ => true

/-- The data registers a host write can load while UNINIT, the access code RW-U of R44. -/
def DataReg.isConfig : DataReg → Bool
  | .b0 | .b1 | .b2 | .b3 | .a1 | .a2 | .a3 | .ref | .upper | .lower => true
  | .upperNeg | .e0 | .e1 | .e2 | .e3 | .u0 | .u1 | .u2 | .lastOut => false

/-- The slots whose access code is RO: SHIFTS, UPPER_NEG, E0..E3, U0..U2 and LAST_OUT (R44, R184). -/
def Slot.isReadOnly : Slot → Bool
  | .shifts => true
  | .data r => !r.isConfig
  | .cmd | .status | .reserved _ => false

/-- The operand conditions of each instruction (R83, R84). -/
def Instr.wellFormed : Instr → Bool
  | .rd slot => slot.wellFormed
  | .cmdRsvd data => data != 1#32 && data != 2#32
  | .wrRo slot _ => slot.isReadOnly
  | .wrRsvd off _ => isReservedOffset off
  | .init | .step | .trig | .reset => true
  | .wrStatus _ | .wrB0 _ | .wrB1 _ | .wrB2 _ | .wrB3 _ | .wrA1 _ | .wrA2 _ | .wrA3 _ => true
  | .wrRef _ | .wrUpper _ | .wrLower _ | .sample _ => true

end Sys2Proof
end

