-- ==== Sys2Proof/Decode.lean ====
section
/-! DEFINITION. The decoder of 64-bit event words (spec/30_encoding.md R80 to R84, R88), total and rejecting by name, and after it the encoder. -/

namespace Sys2Proof

/-- DATA, bits 63:32 (R80). -/
def dataField (w : EventWord) : Word := w.extractLsb' 32 32

/-- KIND, bits 31:29 (R80). -/
def kindField (w : EventWord) : BitVec 3 := w.extractLsb' 29 3

/-- RSV, bits 28:8 (R80). -/
def rsvField (w : EventWord) : BitVec 21 := w.extractLsb' 8 21

/-- OFF, bits 7:0 (R80). -/
def offField (w : EventWord) : Offset := w.extractLsb' 0 8

/-- Why a word spells no event: the conditions of R82. -/
inductive DecodeError where
  /-- RSV is not 0 (R82 item 1). -/
  | reservedBitsSet
  /-- KIND is 0b101, 0b110 or 0b111 (R81, R82 item 2). -/
  | reservedKind
  /-- OFF is not a multiple of 4 in a RD or WR word (R82 items 3, 4). -/
  | misalignedOffset
  /-- DATA is not 0 in a RD, TRIG or RESET word (R82 items 3, 5). -/
  | dataNotZero
  /-- OFF is not 0 in a TRIG, SAMPLE or RESET word (R82 items 5, 6). -/
  | offsetNotZero
  /-- DATA is 2^SAMPLE_W or more in a SAMPLE word (R82 item 6). -/
  | sampleTooWide
deriving DecidableEq, Repr

/-- The data register at an offset of the window, if one stands there (R44). -/
def dataRegAt (off : Offset) : Option DataReg :=
  if off = 0x10#8 then some .b0
  else if off = 0x14#8 then some .b1
  else if off = 0x18#8 then some .b2
  else if off = 0x1C#8 then some .b3
  else if off = 0x20#8 then some .a1
  else if off = 0x24#8 then some .a2
  else if off = 0x28#8 then some .a3
  else if off = 0x2C#8 then some .ref
  else if off = 0x30#8 then some .upper
  else if off = 0x34#8 then some .upperNeg
  else if off = 0x38#8 then some .lower
  else if off = 0x40#8 then some .e0
  else if off = 0x44#8 then some .e1
  else if off = 0x48#8 then some .e2
  else if off = 0x4C#8 then some .e3
  else if off = 0x50#8 then some .u0
  else if off = 0x54#8 then some .u1
  else if off = 0x58#8 then some .u2
  else if off = 0x5C#8 then some .lastOut
  else none

/-- The slot at an offset of the window (R44). An offset that is not a multiple of 4 has none (R63). -/
def slotAt (off : Offset) : Option Slot :=
  if off = 0x00#8 then some .cmd
  else if off = 0x04#8 then some .status
  else if off = 0x08#8 then some .shifts
  else match dataRegAt off with
    | some r => some (.data r)
    | none => if isReservedOffset off then some (.reserved off) else none

/-- The instruction of a host write of `data` to a data register (R83). -/
def decodeDataWrite (r : DataReg) (data : Word) : Instr :=
  match r with
  | .b0 => .wrB0 data
  | .b1 => .wrB1 data
  | .b2 => .wrB2 data
  | .b3 => .wrB3 data
  | .a1 => .wrA1 data
  | .a2 => .wrA2 data
  | .a3 => .wrA3 data
  | .ref => .wrRef data
  | .upper => .wrUpper data
  | .lower => .wrLower data
  | .upperNeg | .e0 | .e1 | .e2 | .e3 | .u0 | .u1 | .u2 | .lastOut => .wrRo (.data r) data

/-- The instruction of a host write to CMD, by the whole DATA word (R84). -/
def decodeCommand (data : Word) : Instr :=
  if data = 1#32 then .init else if data = 2#32 then .step else .cmdRsvd data

/-- The instruction of a host write of `data` to a slot (R83). -/
def decodeWrite (slot : Slot) (data : Word) : Instr :=
  match slot with
  | .cmd => decodeCommand data
  | .status => .wrStatus data
  | .shifts => .wrRo .shifts data
  | .data r => decodeDataWrite r data
  | .reserved off => .wrRsvd off data

/-- A TRIG or RESET word carries neither DATA nor OFF (R82 item 5). -/
def decodeBare (i : Instr) (data : Word) (off : Offset) : Except DecodeError Instr :=
  if data ≠ 0#32 then .error .dataNotZero
  else if off ≠ 0#8 then .error .offsetNotZero
  else .ok i

/-- Decoding by KIND (R81, R82). -/
def decodeFields (data : Word) (kind : BitVec 3) (off : Offset) : Except DecodeError Instr :=
  if kind = 0b000#3 then
    if data ≠ 0#32 then .error .dataNotZero
    else match slotAt off with
      | some slot => .ok (.rd slot)
      | none => .error .misalignedOffset
  else if kind = 0b001#3 then
    match slotAt off with
    | some slot => .ok (decodeWrite slot data)
    | none => .error .misalignedOffset
  else if kind = 0b010#3 then decodeBare .trig data off
  else if kind = 0b011#3 then
    if off ≠ 0#8 then .error .offsetNotZero
    else if 4096 ≤ data.toNat then .error .sampleTooWide
    else .ok (.sample (data.setWidth 12))
  else if kind = 0b100#3 then decodeBare .reset data off
  else .error .reservedKind

/-- The decoder: the instruction a 64-bit event word spells, or why it spells none (R80 to R84). -/
def decode (w : EventWord) : Except DecodeError Instr :=
  if rsvField w ≠ 0#21 then .error .reservedBitsSet
  else decodeFields (dataField w) (kindField w) (offField w)

/-- The byte offset of a data register (R44). -/
def DataReg.offset : DataReg → Offset
  | .b0 => 0x10#8
  | .b1 => 0x14#8
  | .b2 => 0x18#8
  | .b3 => 0x1C#8
  | .a1 => 0x20#8
  | .a2 => 0x24#8
  | .a3 => 0x28#8
  | .ref => 0x2C#8
  | .upper => 0x30#8
  | .upperNeg => 0x34#8
  | .lower => 0x38#8
  | .e0 => 0x40#8
  | .e1 => 0x44#8
  | .e2 => 0x48#8
  | .e3 => 0x4C#8
  | .u0 => 0x50#8
  | .u1 => 0x54#8
  | .u2 => 0x58#8
  | .lastOut => 0x5C#8

/-- The byte offset of a slot (R44). -/
def Slot.offset : Slot → Offset
  | .cmd => 0x00#8
  | .status => 0x04#8
  | .shifts => 0x08#8
  | .data r => r.offset
  | .reserved off => off

/-- An event word from its fields, RSV = 0 (R80). -/
def eventWord (data : Word) (kind : BitVec 3) (off : Offset) : EventWord :=
  data ++ kind ++ 0#21 ++ off

/-- The word of a host read at an offset: KIND = 000, DATA = 0 (R91). -/
def readWord (off : Offset) : EventWord := eventWord 0#32 0b000#3 off

/-- The word of a host write at an offset: KIND = 001 (R91). -/
def writeWord (off : Offset) (data : Word) : EventWord := eventWord data 0b001#3 off

/-- The encoder: the event word of an instruction (R80, R81, R83, R84, R91). -/
def encode : Instr → EventWord
  | .rd slot => readWord slot.offset
  | .init => writeWord 0x00#8 1#32
  | .step => writeWord 0x00#8 2#32
  | .cmdRsvd data => writeWord 0x00#8 data
  | .wrStatus data => writeWord 0x04#8 data
  | .wrB0 data => writeWord 0x10#8 data
  | .wrB1 data => writeWord 0x14#8 data
  | .wrB2 data => writeWord 0x18#8 data
  | .wrB3 data => writeWord 0x1C#8 data
  | .wrA1 data => writeWord 0x20#8 data
  | .wrA2 data => writeWord 0x24#8 data
  | .wrA3 data => writeWord 0x28#8 data
  | .wrRef data => writeWord 0x2C#8 data
  | .wrUpper data => writeWord 0x30#8 data
  | .wrLower data => writeWord 0x38#8 data
  | .wrRo slot data => writeWord slot.offset data
  | .wrRsvd off data => writeWord off data
  | .trig => eventWord 0#32 0b010#3 0#8
  | .sample v => eventWord (v.setWidth 32) 0b011#3 0#8
  | .reset => eventWord 0#32 0b100#3 0#8

/-- One row of spec/opcode_table.json: a word `w` is the row's instruction when `w &&& mask = pattern` (R88). -/
structure OpcodeRow where
  mnemonic : String
  pattern : EventWord
  mask : EventWord
deriving DecidableEq, Repr

/-- The rows of spec/opcode_table.json, in the table's order (R88). -/
def opcodeRows : List OpcodeRow :=
  [ ⟨"RD", 0x0000000000000000#64, 0xFFFFFFFFFFFFFF03#64⟩,
    ⟨"INIT", 0x0000000120000000#64, 0xFFFFFFFFFFFFFFFF#64⟩,
    ⟨"STEP", 0x0000000220000000#64, 0xFFFFFFFFFFFFFFFF#64⟩,
    ⟨"CMD_RSVD", 0x0000000020000000#64, 0x00000000FFFFFFFF#64⟩,
    ⟨"WR_STATUS", 0x0000000020000004#64, 0x00000000FFFFFFFF#64⟩,
    ⟨"WR_B0", 0x0000000020000010#64, 0x00000000FFFFFFFF#64⟩,
    ⟨"WR_B1", 0x0000000020000014#64, 0x00000000FFFFFFFF#64⟩,
    ⟨"WR_B2", 0x0000000020000018#64, 0x00000000FFFFFFFF#64⟩,
    ⟨"WR_B3", 0x000000002000001C#64, 0x00000000FFFFFFFF#64⟩,
    ⟨"WR_A1", 0x0000000020000020#64, 0x00000000FFFFFFFF#64⟩,
    ⟨"WR_A2", 0x0000000020000024#64, 0x00000000FFFFFFFF#64⟩,
    ⟨"WR_A3", 0x0000000020000028#64, 0x00000000FFFFFFFF#64⟩,
    ⟨"WR_REF", 0x000000002000002C#64, 0x00000000FFFFFFFF#64⟩ ] ++
  [ ⟨"WR_UPPER", 0x0000000020000030#64, 0x00000000FFFFFFFF#64⟩,
    ⟨"WR_LOWER", 0x0000000020000038#64, 0x00000000FFFFFFFF#64⟩,
    ⟨"WR_RO", 0x0000000020000008#64, 0x00000000FFFFFFFF#64⟩,
    ⟨"WR_RO", 0x0000000020000034#64, 0x00000000FFFFFFFF#64⟩,
    ⟨"WR_RO", 0x0000000020000040#64, 0x00000000FFFFFFE3#64⟩,
    ⟨"WR_RSVD", 0x000000002000000C#64, 0x00000000FFFFFFFF#64⟩,
    ⟨"WR_RSVD", 0x000000002000003C#64, 0x00000000FFFFFFFF#64⟩,
    ⟨"WR_RSVD", 0x0000000020000060#64, 0x00000000FFFFFFE3#64⟩,
    ⟨"WR_RSVD", 0x0000000020000080#64, 0x00000000FFFFFF83#64⟩,
    ⟨"TRIG", 0x0000000040000000#64, 0xFFFFFFFFFFFFFFFF#64⟩,
    ⟨"SAMPLE", 0x0000000060000000#64, 0xFFFFF000FFFFFFFF#64⟩,
    ⟨"RESET", 0x0000000080000000#64, 0xFFFFFFFFFFFFFFFF#64⟩ ]

/-- A word is a row's instruction by mask and match (R88). -/
def OpcodeRow.accepts (row : OpcodeRow) (w : EventWord) : Bool := w &&& row.mask == row.pattern

/-- Decoding by the table: the first row that accepts, which tries INIT and STEP before CMD_RSVD (R88). -/
def opcodeRowOf (w : EventWord) : Option OpcodeRow := opcodeRows.find? (fun row => row.accepts w)

/-- The mnemonic of an instruction, as spec/opcode_table.json spells it. -/
def Instr.mnemonic : Instr → String
  | .rd _ => "RD"
  | .init => "INIT"
  | .step => "STEP"
  | .cmdRsvd _ => "CMD_RSVD"
  | .wrStatus _ => "WR_STATUS"
  | .wrB0 _ => "WR_B0"
  | .wrB1 _ => "WR_B1"
  | .wrB2 _ => "WR_B2"
  | .wrB3 _ => "WR_B3"
  | .wrA1 _ => "WR_A1"
  | .wrA2 _ => "WR_A2"
  | .wrA3 _ => "WR_A3"
  | .wrRef _ => "WR_REF"
  | .wrUpper _ => "WR_UPPER"
  | .wrLower _ => "WR_LOWER"
  | .wrRo _ _ => "WR_RO"
  | .wrRsvd _ _ => "WR_RSVD"
  | .trig => "TRIG"
  | .sample _ => "SAMPLE"
  | .reset => "RESET"

/-- An instruction's word numbered as the opcode table numbers it: the 64-bit event word whose bits above `nbits` are 0. -/
def tableWord (nbits w : Nat) : EventWord := BitVec.ofNat 64 (w % 2 ^ nbits)

/-- The instruction the decoder reads from a word of the opcode table. -/
def decodeTableWord (nbits w : Nat) : Option Instr := (decode (tableWord nbits w)).toOption

end Sys2Proof
end

