-- ==== Sys2Proof/Machine/State.lean ====
section
/-! DEFINITION. The state of the block (spec/10_state.md R20 to R44) as plain data, the reasons a step can stop (spec/60_exceptions.md R203), and the state after reset (spec/70_reset_and_hazards.md R221). -/

namespace Sys2Proof.Machine

/-- The block mode (R36). STATUS.INIT is 1 exactly in `initialized`. -/
inductive Mode where
  | uninit
  | initialized
deriving DecidableEq, Repr

/-- One value for each data register of R21. -/
structure RegFile (α : Type) where
  b0 : α
  b1 : α
  b2 : α
  b3 : α
  a1 : α
  a2 : α
  a3 : α
  ref : α
  upper : α
  upperNeg : α
  lower : α
  e0 : α
  e1 : α
  e2 : α
  e3 : α
  u0 : α
  u1 : α
  u2 : α
  lastOut : α
deriving DecidableEq, Repr

/-- The same value for every data register. -/
def RegFile.fill {α : Type} (v : α) : RegFile α where
  b0 := v
  b1 := v
  b2 := v
  b3 := v
  a1 := v
  a2 := v
  a3 := v
  ref := v
  upper := v
  upperNeg := v
  lower := v
  e0 := v
  e1 := v
  e2 := v
  e3 := v
  u0 := v
  u1 := v
  u2 := v
  lastOut := v

/-- A host bus access by address (R12): `write` is the word written, `none` for a read. Only 32-bit aligned
accesses inside the window have an event word (R62 to R64, R69). -/
structure BusAccess where
  addr : Nat
  width : Nat
  write : Option Word
deriving DecidableEq, Repr

/-- What can arrive at the block: an event word (R80), or a bus access given by its address (R12, R64). -/
inductive Input where
  | word (w : EventWord)
  | bus (access : BusAccess)
deriving DecidableEq, Repr

/-- One arrival of a transcript: an input, and the cycle it arrives in if the transcript is stamped (R226;
log 8). -/
structure Arrival where
  stamp : Option Nat
  input : Input
deriving DecidableEq, Repr

/-- The state of one block instance, with the transcript of what is still to arrive. -/
structure State where
  /-- The mode (R36). -/
  mode : Mode
  /-- STATUS.ERR, sticky (R33). -/
  err : Bool
  /-- STATUS.ERRC, the first-cause code (R33). -/
  errc : BitVec 4
  /-- The contents of the data registers (R21). A register whose flag is clear still has contents (R22; log 1). -/
  regs : RegFile Word
  /-- The written flag of each data register (R22). -/
  written : RegFile Bool
  /-- The ACT_OUT port (R40). -/
  actOut : Word
  /-- The DUTY_Q8 port (R40). -/
  dutyQ8 : Word
  /-- Whether ACT_OUT holds a value (R40). -/
  actOutWritten : Bool
  /-- Whether DUTY_Q8 holds a value (R40). -/
  dutyQ8Written : Bool
  /-- How many DONE events were emitted (R40; log 5). -/
  doneCount : Nat
  /-- The value on the FB port (R39), once a SAMPLE event has driven it. -/
  fb : Sample
  /-- MODEL: whether a SAMPLE event has driven FB (R186; log 3). -/
  fbDriven : Bool
  /-- MODEL: the word the last RD returned (R180; log 5). -/
  rdata : Word
  /-- MODEL: how many free values were drawn (log 4). -/
  draws : Nat
  /-- MODEL: the first register that a read found without a value, R22's UnwrittenRead as a sticky record (R203; log 23). -/
  unwrittenRead : Option DataReg
  /-- The cycle of the event in hand, `none` in an unstamped transcript (R226; log 8). -/
  now : Option Nat
  /-- The cycle in which the last stamped STEP started, unless its completion is known (R226; log 8). -/
  stepStart : Option Nat
  /-- The index of the next event of the transcript (R38; log 6). -/
  eventIndex : Nat
  /-- MODEL: the arrivals still to come, oldest first (R38, R65; log 6). -/
  arrivals : List Arrival
deriving DecidableEq, Repr

/-- Why the machine stops with a fault (R203). R203's UnwrittenRead is a record in State, not a stop (log 23). -/
inductive Fault where
  /-- Raised by INIT when a configuration register holds no value (R119). Safe. -/
  | initUnconfigured (r : DataReg)
  /-- Raised by STEP and TRIG in UNINIT (R163). Safe. -/
  | stepBeforeInit
  /-- Raised by TRIG and every bus write inside the STEP window of a stamped transcript (R226). Safe. -/
  | overlap
deriving DecidableEq, Repr

/-- Why an input gets no meaning (R203). -/
inductive Refusal where
  /-- Raised by `exec` for an instruction that is not modelled yet. Safe. -/
  | notModelled (mnemonic : String)
  /-- Raised by the step for a word that is not well formed (R82). Safe. -/
  | illFormedEvent (w : EventWord)
  /-- Raised by the step for a bus access that is not 32 bits wide or not aligned (R64). Safe. -/
  | unsupportedAccess (width off : Nat)
  /-- Raised by the step for a bus access whose address does not belong to the block (R69; log 12). Safe. -/
  | outsideWindow (addr : Nat)
  /-- Raised by the step for a transcript whose cycle stamps go back in time (log 11). Safe. -/
  | stampBackwards (cycle : Nat)
  /-- Raised by the host-side quantizer for a value outside 32 bits (R113). Safe. -/
  | quantizerOverflow (r : DataReg) (v : Int)
deriving DecidableEq, Repr

/-- The state after reset (R221, R222): UNINIT, STATUS = 0, no register and no port holds a value. Contents of
registers and ports that hold no value: 0, DESIGN CHOICE (log 1, log 2). The model's own fields: log 3 to log 8, log 23. -/
def State.reset : State where
  mode := .uninit
  err := false
  errc := 0#4
  regs := RegFile.fill 0#32
  written := RegFile.fill false
  actOut := 0#32
  dutyQ8 := 0#32
  actOutWritten := false
  dutyQ8Written := false
  doneCount := 0
  fb := 0#12
  fbDriven := false
  rdata := 0#32
  draws := 0
  unwrittenRead := none
  now := none
  stepStart := none
  eventIndex := 0
  arrivals := []

end Sys2Proof.Machine
end

