-- ==== Sys2Proof/Machine/Operands.lean ====
section
/-! DEFINITION. Conversions and arithmetic on operands: spec/00_scope.md R6, R8, R9, R15, and operand assembly R85. Fixed-point formats: spec/40_fixed_point_format.md R100 to R108. -/

namespace Sys2Proof.Machine

/-- The signed value of a word (R8). -/
def s32 (w : Word) : Int := w.toInt

/-- The 32-bit word of an integer, its residue modulo 2^32 (R8). -/
def u32 (v : Int) : Word := BitVec.ofInt 32 v

/-- Zero-extension of an unsigned N-bit value to 32 bits (R8). -/
def zext {n : Nat} (v : BitVec n) : Word := v.setWidth 32

/-- Sign-extension of a two's-complement N-bit value to 32 bits (R8). -/
def sext {n : Nat} (v : BitVec n) : Word := v.signExtend 32

/-- The integer w with −2^31 ≤ w < 2^31 and w ≡ v modulo 2^32 (R6). -/
def wrap32 (v : Int) : Int := Int.bmod v (2 ^ 32)

/-- The arithmetic right shift ⌊v / 2^s⌋ (R9): division by a positive number rounds toward −∞ here. -/
def asr (v : Int) (s : Nat) : Int := v / 2 ^ s

/-- The symmetric clamp, upper test first (R15, R158). -/
def clampHiFirst (v lo hi : Int) : Int := if v > hi then hi else if v < lo then lo else v

/-- The lower-bound-only clamp (R15, R160). -/
def floorClamp (v lo : Int) : Int := if v < lo then lo else v

/-- The error of a captured sample: REF − zext(fb), wrapped (R156). -/
def newError (ref : Word) (fb : Sample) : Int := wrap32 (s32 ref - s32 (zext fb))

/-- A signed fixed-point format (R101). -/
structure FixedPointFormat where
  totalBits : Nat
  fractionalBits : Nat
deriving DecidableEq, Repr

/-- The invariant of R101, as conflict C2 resolves it. -/
def FixedPointFormat.valid (f : FixedPointFormat) : Bool := f.fractionalBits ≤ f.totalBits

/-- The format `Q(m, n)`: m + n + 1 bits, n of them fractional (R14). -/
def qFormat (m : Int) (n : Nat) : FixedPointFormat := ⟨(m + n + 1).toNat, n⟩

/-- A raw integer fits a format (R102). -/
def FixedPointFormat.fits (f : FixedPointFormat) (r : Int) : Bool :=
  decide (-(2 ^ (f.totalBits - 1) : Int) ≤ r) && decide (r ≤ 2 ^ (f.totalBits - 1) - 1)

/-- Rescaling to fewer fractional bits by an arithmetic right shift (R105). -/
def rescale (v : Int) (fFrom fTo : Nat) : Int := asr v (fFrom - fTo)

/-- The format of each data register (R100). LOWER and LAST_OUT are 32-bit integers. -/
def registerFormat : DataReg → FixedPointFormat
  | .b0 | .b1 | .b2 | .b3 => qFormat (-1) 19
  | .a1 | .a2 | .a3 => qFormat 1 14
  | .upper | .upperNeg | .u0 | .u1 | .u2 => qFormat 8 8
  | .ref | .e0 | .e1 | .e2 | .e3 => qFormat 12 0
  | .lower | .lastOut => ⟨32, 0⟩

/-- The format of the FB port, the format of REF and the errors (R100). -/
def sampleFormat : FixedPointFormat := qFormat 12 0

/-- The points of a STEP at which R100 gives the accumulator a format. -/
inductive AccPoint where
  | feedBack
  | afterShiftA
  | feedForward
  | afterShiftB
deriving DecidableEq, Repr

/-- The fractional bits of the accumulator at each point (R100). -/
def accFraction : AccPoint → Nat
  | .feedBack => 22
  | .afterShiftA => 19
  | .feedForward => 19
  | .afterShiftB => 8

/-- The total bits of the accumulator at each point (R100, conflict C3). The table gives none after SHIFT_A. -/
def accWidth : AccPoint → Option Nat
  | .feedBack => some 32
  | .afterShiftA => none
  | .feedForward => some 32
  | .afterShiftB => some 21

/-- The accumulator's format at each point where R100 gives its width. -/
def accFormat (p : AccPoint) : Option FixedPointFormat := (accWidth p).map (fun t => ⟨t, accFraction p⟩)

/-- The fractional bits of an exact product (R106). -/
def productFraction (f g : FixedPointFormat) : Nat := f.fractionalBits + g.fractionalBits

/-- The design range of a register's value (R100, R114): its format's range, and not negative for UPPER and REF, with
REF below 2^SAMPLE_W. The hardware does not check it (R102, R114). -/
def inDesignRange (r : DataReg) (w : Word) : Bool :=
  match r with
  | .upper => (registerFormat .upper).fits (s32 w) && decide (0 ≤ s32 w)
  | .ref => decide (0 ≤ s32 w) && decide (s32 w ≤ 2 ^ 12 - 1)
  | .b0 | .b1 | .b2 | .b3 | .a1 | .a2 | .a3 | .upperNeg | .lower | .e0 | .e1 | .e2 | .e3 | .u0 | .u1 | .u2 | .lastOut =>
    (registerFormat r).fits (s32 w)

/-- The high-order "coarse duty value" of a Q(·,8) word (R108, R161). -/
def coarseDuty (w : Word) : Int := asr (s32 w) 8

/-- The low-order "fractional portion" of a Q(·,8) word: its bits 7:0 (R108, R161). -/
def fineDuty (w : Word) : BitVec 8 := w.extractLsb' 0 8

end Sys2Proof.Machine
end

