-- ==== Sys2Proof/Machine/Ops.lean ====
section
/-! DEFINITION. The named operations over the registers and the ports, and the STEP window: spec/00_scope.md R11, spec/10_state.md R22, R39, R40, spec/70_reset_and_hazards.md R226. The block takes no traps (spec/60_exceptions.md R205): its one report of misuse, `setErr`, is in Flags.lean. -/

namespace Sys2Proof.Machine

/-- What a machine operation answers. -/
abbrev Result := Host.Outcome State Fault Refusal

/-- The value of one register of a file: `x[NAME]` (R11). -/
def RegFile.get {α : Type} (f : RegFile α) : DataReg → α
  | .b0 => f.b0
  | .b1 => f.b1
  | .b2 => f.b2
  | .b3 => f.b3
  | .a1 => f.a1
  | .a2 => f.a2
  | .a3 => f.a3
  | .ref => f.ref
  | .upper => f.upper
  | .upperNeg => f.upperNeg
  | .lower => f.lower
  | .e0 => f.e0
  | .e1 => f.e1
  | .e2 => f.e2
  | .e3 => f.e3
  | .u0 => f.u0
  | .u1 => f.u1
  | .u2 => f.u2
  | .lastOut => f.lastOut

/-- A file with one register changed: `x[NAME] <- v` (R11). -/
def RegFile.set {α : Type} (f : RegFile α) (r : DataReg) (v : α) : RegFile α :=
  match r with
  | .b0 => { f with b0 := v }
  | .b1 => { f with b1 := v }
  | .b2 => { f with b2 := v }
  | .b3 => { f with b3 := v }
  | .a1 => { f with a1 := v }
  | .a2 => { f with a2 := v }
  | .a3 => { f with a3 := v }
  | .ref => { f with ref := v }
  | .upper => { f with upper := v }
  | .upperNeg => { f with upperNeg := v }
  | .lower => { f with lower := v }
  | .e0 => { f with e0 := v }
  | .e1 => { f with e1 := v }
  | .e2 => { f with e2 := v }
  | .e3 => { f with e3 := v }
  | .u0 => { f with u0 := v }
  | .u1 => { f with u1 := v }
  | .u2 => { f with u2 := v }
  | .lastOut => { f with lastOut := v }

/-- A file with the same value written to each register of a list. -/
def RegFile.setAll {α : Type} (f : RegFile α) (rs : List DataReg) (v : α) : RegFile α :=
  rs.foldl (fun g r => g.set r v) f

/-- The first register of a list that holds no value (R22). -/
def firstUnwritten (s : State) (rs : List DataReg) : Option DataReg :=
  rs.find? (fun r => !s.written.get r)

/-- Registers are read, in order: the first one that holds no value is recorded, unless one is recorded already
(R22, R203; log 23). The read itself returns the contents (log 1). -/
def noteReads (rs : List DataReg) (s : State) : State :=
  { s with unwrittenRead := s.unwrittenRead <|> firstUnwritten s rs }

/-- A register write sets the written flag (R22, R11). -/
def writeReg (r : DataReg) (v : Word) (s : State) : State :=
  { s with regs := s.regs.set r v, written := s.written.set r true }

/-- The word a host read returns to the host (R180; log 5). -/
def respond (w : Word) (s : State) : State := { s with rdata := w }

/-- One free value was drawn (log 4). -/
def countDraw (s : State) : State := { s with draws := s.draws + 1 }

/-- The FB port takes a new value (R186). -/
def driveFb (v : Sample) (s : State) : State := { s with fb := v, fbDriven := true }

/-- The value a STEP captures from the FB port (R151): before any SAMPLE event a free value (R186; log 3). -/
def captureFb (s : State) : Sample := if s.fbDriven then s.fb else Config.freeSample s.draws

/-- The draw counter after a capture of FB. -/
def drawsAfterCapture (s : State) : Nat := if s.fbDriven then s.draws else s.draws + 1

/-- The event in hand arrives inside the STEP_CYCLES window of an earlier STEP (R226): both are stamped, and fewer
than `STEP_CYCLES` cycles lie between them. -/
def stepInProgress (s : State) : Bool :=
  match s.now, s.stepStart with
  | some t, some t0 => decide (t < t0 + Config.stepCycles)
  | _, _ => false

/-- A TRIG or a bus write inside the STEP window is a sequencing violation (R226 item 1). -/
def whenIdle (s : State) (k : Result) : Result :=
  if stepInProgress s then .fault .overlap else k

end Sys2Proof.Machine
end

