-- ==== Sys2Proof/Machine/Flags.lean ====
section
/-! DEFINITION. STATUS and the error report: spec/10_state.md R29, R33, spec/44_register_access.md R181, R182, spec/60_exceptions.md R200. The block has no condition codes and no arithmetic flags (R33). -/

namespace Sys2Proof.Machine

/-- ERRC 1: reserved command word (R33, R200). -/
def errReservedCommand : BitVec 4 := 1#4

/-- ERRC 2: write to a read-only register or a reserved offset (R33, R200). -/
def errReadOnly : BitVec 4 := 2#4

/-- ERRC 3: configuration write while INITIALIZED (R33, R200). -/
def errLocked : BitVec 4 := 3#4

/-- `set_err(code)`: the first cause is kept until ERR is cleared (R13, R200). -/
def setErr (code : BitVec 4) (s : State) : State :=
  if s.err then s else { s with err := true, errc := code }

/-- A write of 1 to STATUS.ERR clears ERR and ERRC (R33, R182). -/
def clearErr (s : State) : State := { s with err := false, errc := 0#4 }

/-- STATUS.INIT mirrors the mode (R33, R36). -/
def initBit (m : Mode) : BitVec 1 :=
  match m with
  | .uninit => 0#1
  | .initialized => 1#1

/-- The STATUS word from its fields: bits 31:8 and 3:2 read 0 (R33). -/
def statusWord (s : State) : Word :=
  0#24 ++ s.errc ++ 0#2 ++ BitVec.ofBool s.err ++ initBit s.mode

/-- The SHIFTS word from its fields: bits 31:24 read 0 (R29). -/
def shiftsWord : Word :=
  0#8 ++ BitVec.ofNat 8 Config.shiftOut ++ BitVec.ofNat 8 Config.shiftB ++ BitVec.ofNat 8 Config.shiftA

end Sys2Proof.Machine
end

