-- ==== Sys2Proof/Machine/Access.lean ====
section
/-! DEFINITION. Register access and port events: RD, WR_STATUS, CMD_RSVD, WR_RO, WR_RSVD and SAMPLE (spec/44_register_access.md R180 to R186). -/

namespace Sys2Proof.Machine

/-- The word at a slot of the window, as a host read sees it (R180, R34, R35). -/
def readSlot (slot : Slot) (s : State) : Word :=
  match slot with
  | .cmd => 0#32
  | .status => statusWord s
  | .shifts => shiftsWord
  | .data r => s.regs.get r
  | .reserved _ => 0#32

/-- The data registers a read of a slot reads (R180). -/
def slotReads : Slot → List DataReg
  | .cmd => []
  | .status => []
  | .shifts => []
  | .data r => [r]
  | .reserved _ => []

/-- Byte `off` of the window, little-endian inside its register (R61). No event reads a byte (R62). -/
def windowByte (s : State) (off : Offset) : BitVec 8 :=
  match slotAt (off &&& 0xFC#8) with
  | none => 0#8
  | some slot => (readSlot slot s).extractLsb' (8 * (off.toNat % 4)) 8

/-- RD (R180). A read inside the STEP window returns a free value (R226 item 2). -/
def execRd (slot : Slot) (s : State) : Result :=
  .next (if stepInProgress s then respond (Config.freeWord s.draws) (countDraw s)
    else respond (readSlot slot s) (noteReads (slotReads slot) s))

/-- WR_STATUS: only DATA[1] is used (R182). -/
def execWrStatus (data : Word) (s : State) : Result :=
  whenIdle s (.next (if data.getLsbD 1 then clearErr s else s))

/-- CMD_RSVD (R183): the word is discarded, whatever it is. -/
def execCmdRsvd (_data : Word) (s : State) : Result :=
  whenIdle s (.next (setErr errReservedCommand s))

/-- WR_RO (R184): the write is discarded. -/
def execWrRo (_slot : Slot) (_data : Word) (s : State) : Result :=
  whenIdle s (.next (setErr errReadOnly s))

/-- WR_RSVD (R184): the write is discarded. -/
def execWrRsvd (_off : Offset) (_data : Word) (s : State) : Result :=
  whenIdle s (.next (setErr errReadOnly s))

/-- SAMPLE (R186): accepted in every mode, inside the STEP window too (R226, R151). -/
def execSample (v : Sample) (s : State) : Result := .next (driveFb v s)

end Sys2Proof.Machine
end

