-- ==== Sys2Proof/Machine/Configuration.lean ====
section
/-! DEFINITION. The ten configuration writes and INIT (spec/41_initialize.md R111, R118, R119). -/

namespace Sys2Proof.Machine

/-- A configuration write: accepted in UNINIT, discarded and reported in INITIALIZED (R111). -/
def writeConfig (r : DataReg) (data : Word) (s : State) : State :=
  match s.mode with
  | .uninit => writeReg r data s
  | .initialized => setErr errLocked s

/-- WR_B0 (R111). -/
def execWrB0 (data : Word) (s : State) : Result := whenIdle s (.next (writeConfig .b0 data s))

/-- WR_B1 (R111). -/
def execWrB1 (data : Word) (s : State) : Result := whenIdle s (.next (writeConfig .b1 data s))

/-- WR_B2 (R111). -/
def execWrB2 (data : Word) (s : State) : Result := whenIdle s (.next (writeConfig .b2 data s))

/-- WR_B3 (R111). -/
def execWrB3 (data : Word) (s : State) : Result := whenIdle s (.next (writeConfig .b3 data s))

/-- WR_A1 (R111). -/
def execWrA1 (data : Word) (s : State) : Result := whenIdle s (.next (writeConfig .a1 data s))

/-- WR_A2 (R111). -/
def execWrA2 (data : Word) (s : State) : Result := whenIdle s (.next (writeConfig .a2 data s))

/-- WR_A3 (R111). -/
def execWrA3 (data : Word) (s : State) : Result := whenIdle s (.next (writeConfig .a3 data s))

/-- WR_REF (R111). -/
def execWrRef (data : Word) (s : State) : Result := whenIdle s (.next (writeConfig .ref data s))

/-- WR_UPPER (R111). -/
def execWrUpper (data : Word) (s : State) : Result := whenIdle s (.next (writeConfig .upper data s))

/-- WR_LOWER (R111). -/
def execWrLower (data : Word) (s : State) : Result := whenIdle s (.next (writeConfig .lower data s))

/-- The configuration registers, in the order INIT checks them (R118). -/
def configRegs : List DataReg := [.b0, .b1, .b2, .b3, .a1, .a2, .a3, .ref, .upper, .lower]

/-- The history registers INIT zeroes (R118). -/
def historyRegs : List DataReg := [.e0, .e1, .e2, .e3, .u0, .u1, .u2]

/-- UPPER_NEG as INIT forms it (R118, R27). -/
def negatedUpper (upper : Word) : Word := u32 (wrap32 (0 - s32 upper))

/-- What INIT does once the configuration is complete (R118): ERR, ERRC and LAST_OUT stay. -/
def commitInit (s : State) : State :=
  { s with
    regs := (s.regs.setAll historyRegs 0#32).set .upperNeg (negatedUpper (s.regs.get .upper))
    written := (s.written.setAll historyRegs true).set .upperNeg true
    mode := .initialized }

/-- INIT (R118). A configuration register that holds no value faults before any effect (R119). -/
def execInit (s : State) : Result :=
  whenIdle s (match firstUnwritten s configRegs with
    | some r => .fault (.initUnconfigured r)
    | none => .next (commitInit s))

end Sys2Proof.Machine
end

