-- ==== Sys2Proof/Machine/Filter.lean ====
section
/-! DEFINITION. STEP and TRIG: the multi-stage accumulator and the saturation unit (spec/43_fixed_step.md R150 to R163), line by line as R150's pseudocode. -/

namespace Sys2Proof.Machine

/-- Stage 1, the feed-back terms, format `accFormat .feedBack` (R153, R100): the accumulator, and the file after the output history
has shifted. Each product reads its slot before the slot is overwritten. -/
def feedBackStage (x : RegFile Word) : Int × RegFile Word :=
  let acc := wrap32 (s32 (x.get .a3) * s32 (x.get .u2))
  let x := x.set .u2 (x.get .u1)
  let acc := wrap32 (acc + s32 (x.get .a2) * s32 (x.get .u1))
  let x := x.set .u1 (x.get .u0)
  let acc := wrap32 (acc + s32 (x.get .a1) * s32 (x.get .u0))
  (acc, x)

/-- Stage 2, the feed-forward terms, format `accFormat .feedForward` (R155, R100): added to the shifted stage-1 value. The new error is
written before the B0 product (R156). -/
def feedForwardStage (fb : Sample) (acc : Int) (x : RegFile Word) : Int × RegFile Word :=
  let acc := wrap32 (acc + s32 (x.get .b3) * s32 (x.get .e2))
  let x := x.set .e2 (x.get .e1)
  let acc := wrap32 (acc + s32 (x.get .b2) * s32 (x.get .e1))
  let x := x.set .e1 (x.get .e0)
  let acc := wrap32 (acc + s32 (x.get .b1) * s32 (x.get .e0))
  let x := x.set .e0 (u32 (newError (x.get .ref) fb))
  let acc := wrap32 (acc + s32 (x.get .b0) * s32 (x.get .e0))
  (acc, x)

/-- The saturation unit and the output extraction (R158, R159, R160). -/
def saturate (acc : Int) (x : RegFile Word) : RegFile Word :=
  let acc := clampHiFirst acc (s32 (x.get .upperNeg)) (s32 (x.get .upper))
  let x := x.set .u0 (u32 acc)
  let out := asr acc Config.shiftOut
  let out := floorClamp out (s32 (x.get .lower))
  x.set .lastOut (u32 out)

/-- The register file after one tick with the captured sample `fb` (R150). -/
def filterStep (fb : Sample) (x : RegFile Word) : RegFile Word :=
  let stage1 := feedBackStage x
  let stage2 := feedForwardStage fb (asr stage1.1 Config.shiftA) stage1.2
  saturate (asr stage2.1 Config.shiftB) stage2.2

/-- The registers STEP reads, in the order R150 first reads them (log 14). -/
def stepReads : List DataReg :=
  [.a3, .u2, .u1, .a2, .u0, .a1, .b3, .e2, .e1, .b2, .e0, .b1, .ref, .b0, .upper, .upperNeg, .lower]

/-- The registers STEP writes (R150): E3 is not among them. -/
def stepWrites : List DataReg := [.u2, .u1, .e2, .e1, .e0, .u0, .lastOut]

/-- One completed tick: the registers, the output ports and DONE (R150, R161). STATUS is not written. In no state of a run
is an input without a value, so that nothing is recorded (R150; log 14). -/
def tick (s : State) : State :=
  let x := filterStep (captureFb s) s.regs
  { s with
    regs := x
    written := s.written.setAll stepWrites true
    actOut := x.get .lastOut
    dutyQ8 := x.get .u0
    actOutWritten := true
    dutyQ8Written := true
    doneCount := s.doneCount + 1
    draws := drawsAfterCapture s
    unwrittenRead := (noteReads stepReads s).unwrittenRead
    stepStart := s.now }

/-- The operation both entries perform (R150, R163). -/
def runStep (s : State) : Result :=
  match s.mode with
  | .uninit => .fault .stepBeforeInit
  | .initialized => .next (tick s)

/-- STEP (R150). -/
def execStep (s : State) : Result := whenIdle s (runStep s)

/-- TRIG (R162): one pulse performs exactly one STEP. -/
def execTrig (s : State) : Result := whenIdle s (runStep s)

end Sys2Proof.Machine
end

