-- ==== Sys2Proof/Machine/Reset.lean ====
section
/-! DEFINITION. RESET (spec/70_reset_and_hazards.md R220 to R222). -/

namespace Sys2Proof.Machine

/-- The DONE count after a RESET: a STEP still in its window is abandoned and emits no DONE (R220; log 9). -/
def doneAfterReset (s : State) : Nat := if stepInProgress s then s.doneCount - 1 else s.doneCount

/-- RESET (R220): UNINIT, STATUS 0, no register and no port holds a value. FB is unchanged. Contents of what holds no
value: as `State.reset` (log 1, log 2). -/
def execReset (s : State) : Result :=
  .next { s with
    mode := .uninit
    err := false
    errc := 0#4
    regs := RegFile.fill 0#32
    written := RegFile.fill false
    actOut := 0#32
    dutyQ8 := 0#32
    actOutWritten := false
    dutyQ8Written := false
    doneCount := doneAfterReset s
    stepStart := none }

end Sys2Proof.Machine
end

