-- ==== Sys2Proof/Machine/Dispatch.lean ====
section
/-! DEFINITION. One arm per instruction: spec/30_encoding.md R88. -/

namespace Sys2Proof.Machine

def exec (i : Instr) (s : State) : Host.Outcome State Fault Refusal :=
  match i with
  | .rd slot => Sys2Proof.Machine.execRd slot s
  | .init => Sys2Proof.Machine.execInit s
  | .step => Sys2Proof.Machine.execStep s
  | .cmdRsvd data => Sys2Proof.Machine.execCmdRsvd data s
  | .wrStatus data => Sys2Proof.Machine.execWrStatus data s
  | .wrB0 data => Sys2Proof.Machine.execWrB0 data s
  | .wrB1 data => Sys2Proof.Machine.execWrB1 data s
  | .wrB2 data => Sys2Proof.Machine.execWrB2 data s
  | .wrB3 data => Sys2Proof.Machine.execWrB3 data s
  | .wrA1 data => Sys2Proof.Machine.execWrA1 data s
  | .wrA2 data => Sys2Proof.Machine.execWrA2 data s
  | .wrA3 data => Sys2Proof.Machine.execWrA3 data s
  | .wrRef data => Sys2Proof.Machine.execWrRef data s
  | .wrUpper data => Sys2Proof.Machine.execWrUpper data s
  | .wrLower data => Sys2Proof.Machine.execWrLower data s
  | .wrRo slot data => Sys2Proof.Machine.execWrRo slot data s
  | .wrRsvd off data => Sys2Proof.Machine.execWrRsvd off data s
  | .trig => Sys2Proof.Machine.execTrig s
  | .sample v => Sys2Proof.Machine.execSample v s
  | .reset => Sys2Proof.Machine.execReset s

end Sys2Proof.Machine
end

