-- ==== Sys2Proof/Machine/Fetch.lean ====
section
/-! DEFINITION. How the next event reaches the block: bus accesses by address (spec/00_scope.md R12, spec/20_memory.md R60 to R64, R69), arrival order and same-cycle order (R65, spec/60_exceptions.md R201), and cycle stamps (spec/70_reset_and_hazards.md R226). -/

namespace Sys2Proof.Machine

/-- The event word of a bus access (R12, R91): 32 bits wide, aligned, and inside the window; any other access has no
event word (R64, R69; log 12). -/
def busWord (access : BusAccess) : Except Refusal EventWord :=
  if access.addr < Config.base then .error (.outsideWindow access.addr)
  else if Config.base + Config.windowBytes ≤ access.addr then .error (.outsideWindow access.addr)
  else
    let off := access.addr - Config.base
    if access.width ≠ 32 then .error (.unsupportedAccess access.width off)
    else if off % 4 ≠ 0 then .error (.unsupportedAccess access.width off)
    else match access.write with
      | none => .ok (readWord (BitVec.ofNat 8 off))
      | some data => .ok (writeWord (BitVec.ofNat 8 off) data)

/-- The event word of an input. -/
def inputWord : Input → Except Refusal EventWord
  | .word w => .ok w
  | .bus access => busWord access

/-- The instruction an input spells, or why it spells none (R82, R64). -/
def inputInstr (input : Input) : Except Refusal Instr :=
  match inputWord input with
  | .error r => .error r
  | .ok w => match decode w with
    | .error _ => .error (.illFormedEvent w)
    | .ok i => .ok i

/-- The events that reach the block through its bus slave port: RD and every WR (R41, R83). -/
def isBusEvent : Instr → Bool
  | .rd _ | .init | .step | .cmdRsvd _ | .wrStatus _ | .wrRo _ _ | .wrRsvd _ _ => true
  | .wrB0 _ | .wrB1 _ | .wrB2 _ | .wrB3 _ | .wrA1 _ | .wrA2 _ | .wrA3 _ => true
  | .wrRef _ | .wrUpper _ | .wrLower _ => true
  | .trig | .sample _ | .reset => false

/-- The bus events that write: every bus event but RD. -/
def isBusWrite : Instr → Bool
  | .rd _ => false
  | i => isBusEvent i

/-- The arrival spells an instruction of the given kind. -/
def spells (kind : Instr → Bool) (a : Arrival) : Bool :=
  match inputInstr a.input with
  | .ok i => kind i
  | .error _ => false

/-- The arrival spells no instruction. -/
def spellsNothing (a : Arrival) : Bool := !spells (fun _ => true) a

/-- Which arrival of one cycle the block takes first, and what is left to arrive (R201): a RESET discards every other
event of its cycle; a bus access goes before a TRIG; all else keeps the order of the transcript (log 10). An arrival that
spells no event is taken first, so that the step refuses it. `group` holds the arrivals of the cycle, `head` first. -/
def arbitrate (head : Arrival) (group later : List Arrival) : Arrival × List Arrival :=
  match group.find? spellsNothing with
  | some bad => (bad, later)
  | none => match group.find? (spells (· == .reset)) with
    | some rst => (rst, later)
    | none =>
      if spells (· == .trig) head then
        match group.find? (spells isBusEvent) with
        | some access => (access, group.erase access ++ later)
        | none => (head, group.tail ++ later)
      else (head, group.tail ++ later)

/-- The next arrival the block takes, and what is left (R65, R201). Unstamped arrivals are taken in order. -/
def takeNext : List Arrival → Option (Arrival × List Arrival)
  | [] => none
  | a :: rest => match a.stamp with
    | none => some (a, rest)
    | some t => some (arbitrate a
        (a :: rest.takeWhile (fun b => b.stamp == some t)) (rest.dropWhile (fun b => b.stamp == some t)))

/-- The cycle of an arrival becomes the current one. An unstamped arrival takes R226's premise: it arrives after the
previous STEP has completed (log 8). Stamps that go back in time are refused (log 11). -/
def arrive (stamp : Option Nat) (s : State) : Except Refusal State :=
  match stamp with
  | none => .ok { s with now := none, stepStart := none }
  | some t => match s.now with
    | none => .ok { s with now := some t }
    | some earlier => if t < earlier then .error (.stampBackwards t) else .ok { s with now := some t }

/-- The transcript moves past what was taken: the index counts the events consumed (R38; log 6). -/
def consume (rest : List Arrival) (s : State) : State :=
  { s with arrivals := rest, eventIndex := s.eventIndex + (s.arrivals.length - rest.length) }

/-- The next event and the state it meets, or `none` where nothing is left to arrive. -/
def fetch (s : State) : Option (Except Refusal (Instr × State)) :=
  match takeNext s.arrivals with
  | none => none
  | some (a, rest) => match inputInstr a.input with
    | .error r => some (.error r)
    | .ok i => match arrive a.stamp s with
      | .error r => some (.error r)
      | .ok s1 => some (.ok (i, consume rest s1))

/-- An unstamped event word put at the head of the transcript (log 6). -/
def pushWord (w : EventWord) (s : State) : State :=
  { s with arrivals := ⟨none, .word w⟩ :: s.arrivals }

end Sys2Proof.Machine
end

