-- ==== Sys2Proof/Machine/Step.lean ====
section
/-! DEFINITION. One step of the block: it takes one event (spec/20_memory.md R65) and performs it; with nothing left to arrive it holds its state (spec/60_exceptions.md R209; log 7). -/

namespace Sys2Proof.Machine

/-- One interface event is one atomic step (R65, decision D1). -/
def step (s : State) : Host.Outcome State Fault Refusal :=
  match fetch s with
  | none => .next s
  | some (.error r) => .refused r
  | some (.ok (i, s1)) => exec i s1

/-- `s` with the event word `w` as the next one to arrive (log 6). -/
def State.withFetchWord (s : State) (nbits w : Nat) : State := pushWord (tableWord nbits w) s

end Sys2Proof.Machine
end

