-- ==== Sys2Proof/Machine/Quantize.lean ====
section
/-! DEFINITION. The host-side conversions and quantization that give the configuration words their meaning (spec/00_scope.md R10, spec/40_fixed_point_format.md R103, R104, spec/41_initialize.md R110 to R116). Not hardware: no event reaches it. -/

namespace Sys2Proof.Machine

/-- Truncation toward zero (R10). -/
def truncRat (x : Rat) : Int := if 0 ≤ x then x.floor else x.ceil

/-- The real value of a raw integer with `f` fractional bits (R103). -/
def toReal (r : Int) (f : Nat) : Rat := (r : Rat) / 2 ^ f

/-- The raw integer of a real value with `f` fractional bits, truncated (R104). -/
def fromReal (x : Rat) (f : Nat) : Int := truncRat (x * 2 ^ f)

/-- `round_to_fixed`: truncation, despite the name (R112, conflict C12). -/
def roundToFixed (x : Rat) (fmt : FixedPointFormat) : Int := fromReal x fmt.fractionalBits

/-- The inputs of the document's Initializer (R110), but for the feedback handle, which is wiring. -/
structure InitializerInputs where
  rawB0 : Rat
  rawB1 : Rat
  rawB2 : Rat
  rawB3 : Rat
  rawA1 : Rat
  rawA2 : Rat
  rawA3 : Rat
  gain : Rat
  reference : Int
  pwmMin : Int
  pwmMax : Rat
deriving DecidableEq, Repr

/-- The ten configuration words, by register. -/
structure ConfigWords where
  b0 : Word
  b1 : Word
  b2 : Word
  b3 : Word
  a1 : Word
  a2 : Word
  a3 : Word
  ref : Word
  upper : Word
  lower : Word
deriving DecidableEq, Repr

/-- The value a register is to hold, before it is a word (R115, R116). UPPER_NEG is no host value; the registers the
host cannot write have none. -/
def quantizedValue (x : InitializerInputs) : DataReg → Int
  | .b0 => roundToFixed (x.rawB0 * x.gain) (registerFormat .b0)
  | .b1 => roundToFixed (x.rawB1 * x.gain) (registerFormat .b1)
  | .b2 => roundToFixed (x.rawB2 * x.gain) (registerFormat .b2)
  | .b3 => roundToFixed (x.rawB3 * x.gain) (registerFormat .b3)
  | .a1 => roundToFixed x.rawA1 (registerFormat .a1)
  | .a2 => roundToFixed x.rawA2 (registerFormat .a2)
  | .a3 => roundToFixed x.rawA3 (registerFormat .a3)
  | .ref => x.reference
  | .upper => roundToFixed (x.pwmMax - 1) (registerFormat .upper)
  | .lower => x.pwmMin
  | .upperNeg | .e0 | .e1 | .e2 | .e3 | .u0 | .u1 | .u2 | .lastOut => 0

/-- A quantized value as a register word; one outside [−2^31, 2^31) is refused (R113; log 18). -/
def registerWord (r : DataReg) (v : Int) : Except Refusal Word :=
  if -(2 ^ 31) ≤ v ∧ v < 2 ^ 31 then .ok (u32 v) else .error (.quantizerOverflow r v)

/-- The word of one configuration register from the Initializer's inputs (R113, R115, R116). -/
def quantizedWord (x : InitializerInputs) (r : DataReg) : Except Refusal Word := registerWord r (quantizedValue x r)

/-- The ten words from the Initializer's inputs (R120 step 1). Where several of them overflow, the refusal names the first
in the order B0..B3, A1..A3, REF, UPPER, LOWER: DESIGN CHOICE, R113 names no order (log 18). -/
def quantize (x : InitializerInputs) : Except Refusal ConfigWords := do
  let b0 ← quantizedWord x .b0
  let b1 ← quantizedWord x .b1
  let b2 ← quantizedWord x .b2
  let b3 ← quantizedWord x .b3
  let a1 ← quantizedWord x .a1
  let a2 ← quantizedWord x .a2
  let a3 ← quantizedWord x .a3
  let ref ← quantizedWord x .ref
  let upper ← quantizedWord x .upper
  let lower ← quantizedWord x .lower
  return { b0, b1, b2, b3, a1, a2, a3, ref, upper, lower }

/-- `CONFIG`: the ten configuration writes, in R92's order. -/
def configEvents (c : ConfigWords) : List Instr :=
  [.wrB0 c.b0, .wrB1 c.b1, .wrB2 c.b2, .wrB3 c.b3, .wrA1 c.a1, .wrA2 c.a2, .wrA3 c.a3, .wrRef c.ref, .wrUpper c.upper,
    .wrLower c.lower]

/-- `TICK v`: SAMPLE, then TRIG (R92). -/
def tickEvents (v : Sample) : List Instr := [.sample v, .trig]

/-- `CLRERR`: the write-1-to-clear of STATUS (R92). -/
def clearErrEvents : List Instr := [.wrStatus 2#32]

/-- `INITIALIZE`: CONFIG with the quantized words, then INIT (R92, R120). -/
def initializerEvents (x : InitializerInputs) : Except Refusal (List Instr) :=
  match quantize x with
  | .error r => .error r
  | .ok c => .ok (configEvents c ++ [.init])

end Sys2Proof.Machine
end

