-- ==== Sys2Proof/Machine/Assembler.lean ====
section
/-! DEFINITION. The transcript syntax of spec/30_encoding.md R90 to R92: a line of text as event words. Text is a list of characters. Tooling of the spec, not hardware. -/

namespace Sys2Proof.Machine

/-- The register names of R44 with their offsets. -/
def registerNames : List (List Char × Offset) :=
  [ (['C', 'M', 'D'], 0x00#8), (['S', 'T', 'A', 'T', 'U', 'S'], 0x04#8), (['S', 'H', 'I', 'F', 'T', 'S'], 0x08#8),
    (['B', '0'], 0x10#8), (['B', '1'], 0x14#8), (['B', '2'], 0x18#8), (['B', '3'], 0x1C#8) ] ++
  [ (['A', '1'], 0x20#8), (['A', '2'], 0x24#8), (['A', '3'], 0x28#8), (['R', 'E', 'F'], 0x2C#8),
    (['U', 'P', 'P', 'E', 'R'], 0x30#8), (['U', 'P', 'P', 'E', 'R', '_', 'N', 'E', 'G'], 0x34#8),
    (['L', 'O', 'W', 'E', 'R'], 0x38#8) ] ++
  [ (['E', '0'], 0x40#8), (['E', '1'], 0x44#8), (['E', '2'], 0x48#8), (['E', '3'], 0x4C#8), (['U', '0'], 0x50#8),
    (['U', '1'], 0x54#8), (['U', '2'], 0x58#8), (['L', 'A', 'S', 'T', '_', 'O', 'U', 'T'], 0x5C#8) ]

/-- A run of `count` consecutive characters that are digits, the first of which is worth `value`. -/
structure DigitRun where
  start : Char
  count : Nat
  value : Nat
deriving DecidableEq, Repr

/-- The digits of a `<value>` of R90: decimal ones, and the six hex letters in either case (log 19). -/
def digitRuns : List DigitRun := [⟨'0', 10, 0⟩, ⟨'A', 6, 10⟩, ⟨'a', 6, 10⟩]

/-- The character belongs to the run. -/
def DigitRun.holds (run : DigitRun) (c : Char) : Bool :=
  Nat.ble run.start.toNat c.toNat && Nat.blt c.toNat (run.start.toNat + run.count)

/-- The value of a digit in base 16. -/
def digitValue (c : Char) : Option Nat :=
  (digitRuns.find? (fun run => run.holds c)).map (fun run => run.value + (c.toNat - run.start.toNat))

/-- The digits of a number in the given base, most significant first, after `acc`. -/
def digitsValue (base acc : Nat) : List Char → Option Nat
  | [] => some acc
  | c :: cs => match digitValue c with
    | none => none
    | some d => if d < base then digitsValue base (acc * base + d) cs else none

/-- A number of at least one digit. -/
def numberValue (base : Nat) (cs : List Char) : Option Nat :=
  if cs.isEmpty then none else digitsValue base 0 cs

/-- A `<value>` of R90: a decimal integer in [−2^31, 2^32), or `0x` and 1 to 8 hex digits. -/
def parseValue : List Char → Option Int
  | '0' :: 'x' :: cs => if cs.length ≤ 8 then (numberValue 16 cs).map Int.ofNat else none
  | '-' :: cs => match numberValue 10 cs with
    | none => none
    | some n => if n ≤ 2 ^ 31 then some (-(n : Int)) else none
  | cs => match numberValue 10 cs with
    | none => none
    | some n => if n < 2 ^ 32 then some (n : Int) else none

/-- A `<reg>` of R90: a name of R44, or `@0x` and two hex digits for a raw offset. -/
def parseReg : List Char → Option Offset
  | '@' :: '0' :: 'x' :: cs => if cs.length = 2 then (numberValue 16 cs).map (BitVec.ofNat 8) else none
  | cs => (registerNames.find? (fun p => p.1 == cs)).map (fun p => p.2)

/-- A number without a sign, as `INITIALIZE` takes its rational operands: `n`, the decimal fraction `n.m`, or the fraction
`n/m` with `m` not 0. DESIGN CHOICE: the spec gives these operands no syntax (log 22). -/
def parseMagnitude (cs : List Char) : Option Rat :=
  let whole := cs.takeWhile (fun c => c != '.' && c != '/')
  match numberValue 10 whole, cs.drop whole.length with
  | some n, [] => some n
  | some n, mark :: rest => match numberValue 10 rest with
    | none => none
    | some m =>
      if mark == '.' then some (n + (m : Rat) / 10 ^ rest.length)
      else if m = 0 then none
      else some ((n : Rat) / m)
  | none, _ => none

/-- A rational operand of `INITIALIZE`, with an optional minus sign: DESIGN CHOICE (log 22). -/
def parseRational : List Char → Option Rat
  | '-' :: cs => (parseMagnitude cs).map (fun q => -q)
  | cs => parseMagnitude cs

/-- The sample of `SAMPLE v`: 0 ≤ v < 2^SAMPLE_W (R91). -/
def parseSample (cs : List Char) : Option Sample :=
  match parseValue cs with
  | none => none
  | some v => if 0 ≤ v ∧ v < 4096 then some (BitVec.ofInt 12 v) else none

/-- A line without its comment: everything before the first `;` (R90). -/
def withoutComment (line : List Char) : List Char := line.takeWhile (fun c => c != ';')

/-- The characters that separate the fields of a line (log 19). -/
def separators : List Char := [' ', '\t', ',']

/-- The fields of a line: separators stand between them, and may leave empty ones. -/
def fieldsOf : List Char → List (List Char)
  | [] => []
  | c :: cs =>
    if separators.contains c then [] :: fieldsOf cs
    else match fieldsOf cs with
      | [] => [[c]]
      | f :: fs => (c :: f) :: fs

/-- The non-empty fields of a line. -/
def tokensOf (line : List Char) : List (List Char) :=
  (fieldsOf (withoutComment line)).filter (fun f => !f.isEmpty)

/-- The word of a value (R90, R91). -/
def parseWord (cs : List Char) : Option Word := (parseValue cs).map u32

/-- The ten words of `CONFIG` (R92). -/
def parseConfig (args : List (List Char)) : Option ConfigWords :=
  match args.mapM parseWord with
  | some [b0, b1, b2, b3, a1, a2, a3, ref, upper, lower] => some { b0, b1, b2, b3, a1, a2, a3, ref, upper, lower }
  | _ => none

/-- The inputs of `INITIALIZE` (R92, R110): nine rationals, and the integers `reference` and `pwmMin` as R90's `<value>`.
DESIGN CHOICE for how they are written (log 22). -/
def parseInputs : List (List Char) → Option InitializerInputs
  | [b0, b1, b2, b3, a1, a2, a3, k, reference, lower, upper] => do
    let rawB0 ← parseRational b0
    let rawB1 ← parseRational b1
    let rawB2 ← parseRational b2
    let rawB3 ← parseRational b3
    let rawA1 ← parseRational a1
    let rawA2 ← parseRational a2
    let rawA3 ← parseRational a3
    let gain ← parseRational k
    let reference ← parseValue reference
    let pwmMin ← parseValue lower
    let pwmMax ← parseRational upper
    return { rawB0, rawB1, rawB2, rawB3, rawA1, rawA2, rawA3, gain, reference, pwmMin, pwmMax }
  | _ => none

/-- The event words of `INITIALIZE` on given inputs (R92); none where the quantizer refuses (R113). -/
def assembleInitialize (x : InitializerInputs) : Option (List EventWord) :=
  match initializerEvents x with
  | .ok events => some (events.map encode)
  | .error _ => none

/-- The event words of a line's fields (R90 to R92); `none` where the assembler rejects the line. DESIGN CHOICE: a line
without fields, blank or comment only, assembles to no event (log 19), and how `INITIALIZE` writes its operands (log 22). -/
def assembleTokens : List (List Char) → Option (List EventWord)
  | [] => some []
  | [['R', 'D'], reg] => (parseReg reg).map (fun off => [readWord off])
  | [['W', 'R'], reg, v] => match parseReg reg, parseWord v with
    | some off, some data => some [writeWord off data]
    | _, _ => none
  | [['I', 'N', 'I', 'T']] => some [writeWord 0x00#8 1#32]
  | [['S', 'T', 'E', 'P']] => some [writeWord 0x00#8 2#32]
  | [['T', 'R', 'I', 'G']] => some [encode .trig]
  | [['S', 'A', 'M', 'P', 'L', 'E'], v] => (parseSample v).map (fun x => [encode (.sample x)])
  | [['R', 'E', 'S', 'E', 'T']] => some [encode .reset]
  | [['T', 'I', 'C', 'K'], v] => (parseSample v).map (fun x => (tickEvents x).map encode)
  | [['C', 'L', 'R', 'E', 'R', 'R']] => some (clearErrEvents.map encode)
  | ['C', 'O', 'N', 'F', 'I', 'G'] :: args => (parseConfig args).map (fun c => (configEvents c).map encode)
  | ['I', 'N', 'I', 'T', 'I', 'A', 'L', 'I', 'Z', 'E'] :: args => (parseInputs args).bind assembleInitialize
  | _ => none

/-- The event words of one line of a transcript (R90 to R92). -/
def assembleLine (line : List Char) : Option (List EventWord) := assembleTokens (tokensOf line)

/-- A transcript of event words as unstamped arrivals, ready to run (R38, R90). -/
def transcript (ws : List EventWord) : List Arrival := ws.map (fun w => ⟨none, .word w⟩)

end Sys2Proof.Machine
end

