-- ==== Sys2Proof/Machine/Reference.lean ====
section
/-! DEFINITION. The floating reference model of spec/42_float_reference.md R130 to R136, over exact rationals. It is not hardware and no interface event reaches it (R3). -/

namespace Sys2Proof.Machine

/-- The reference state (R130): fB[0..3], fA[1..3], fE[0..3], fU[0..2], the bounds, and fLast, which holds no value until
the first reference step (R131). -/
structure RefState where
  fB0 : Rat
  fB1 : Rat
  fB2 : Rat
  fB3 : Rat
  fA1 : Rat
  fA2 : Rat
  fA3 : Rat
  fE0 : Rat
  fE1 : Rat
  fE2 : Rat
  fE3 : Rat
  fU0 : Rat
  fU1 : Rat
  fU2 : Rat
  fRef : Rat
  fUpper : Rat
  fLower : Rat
  fLast : Option Int
deriving DecidableEq, Repr

/-- Reference initialisation (R131): both bounds as they are, all history zero. -/
def refInit (x : InitializerInputs) : RefState where
  fB0 := x.rawB0 * x.gain
  fB1 := x.rawB1 * x.gain
  fB2 := x.rawB2 * x.gain
  fB3 := x.rawB3 * x.gain
  fA1 := x.rawA1
  fA2 := x.rawA2
  fA3 := x.rawA3
  fE0 := 0
  fE1 := 0
  fE2 := 0
  fE3 := 0
  fU0 := 0
  fU1 := 0
  fU2 := 0
  fRef := x.reference
  fUpper := x.pwmMax
  fLower := x.pwmMin
  fLast := none

/-- The symmetric clamp over rationals, upper test first (R15, R132 step 5). -/
def clampRat (v lo hi : Rat) : Rat := if v > hi then hi else if v < lo then lo else v

/-- One reference tick with feedback sample `fb`, in R132's exact order. `rnd` rounds each `+` and each `×`
and nothing else, as R136 says: the OPEN parameter FLOAT_FMT. The reference model of the spec takes `rnd = id` (log 17). -/
def refStep (rnd : Rat → Rat) (fb : Int) (x : RefState) : RefState :=
  let acc : Rat := 0
  let acc := rnd (acc + rnd (x.fB3 * x.fE2))
  let x := { x with fE2 := x.fE1 }
  let acc := rnd (acc + rnd (x.fB2 * x.fE1))
  let x := { x with fE1 := x.fE0 }
  let acc := rnd (acc + rnd (x.fB1 * x.fE0))
  let x := { x with fE0 := x.fRef - fb }
  let acc := rnd (acc + rnd (x.fB0 * x.fE0))
  let acc := rnd (acc + rnd (x.fA3 * x.fU2))
  let x := { x with fU2 := x.fU1 }
  let acc := rnd (acc + rnd (x.fA2 * x.fU1))
  let x := { x with fU1 := x.fU0 }
  let acc := rnd (acc + rnd (x.fA1 * x.fU0))
  let acc := clampRat acc (-x.fUpper) x.fUpper
  let x := { x with fU0 := acc }
  let acc := if acc < x.fLower then x.fLower else acc
  { x with fLast := some (truncRat acc) }

/-- The reference model's tick in exact arithmetic (R136). -/
def exactRefStep (fb : Int) (x : RefState) : RefState := refStep id fb x

end Sys2Proof.Machine
end

