-- ==== Sys2Proof/Safety.lean ====
section
/-! DEFINITION. What claims are stated in: runs of events, the invariants of the block (spec/10_state.md, spec/43_fixed_step.md R165, spec/44_register_access.md R180), and the closed forms of spec/43_fixed_step.md R166 and spec/42_float_reference.md R133. -/

namespace Sys2Proof.Machine

/-- Events performed one after another, stopping at the first fault or refusal (R65). -/
def execAll : List Instr → State → Result
  | [], s => .next s
  | i :: is, s => match exec i s with
    | .next t => execAll is t
    | .fault f => .fault f
    | .refused r => .refused r

/-- The ticks `TICK v1`, `TICK v2`, … of a list of samples, in time order (R92). -/
def ticks : List Sample → List Instr
  | [] => []
  | v :: vs => tickEvents v ++ ticks vs

/-- The states a transcript can lead to from reset (R222, R223). -/
inductive Reachable : State → Prop where
  | start (as : List Arrival) : Reachable { State.reset with arrivals := as }
  | next {s t : State} (h : Reachable s) (hstep : step s = .next t) : Reachable t

/-- ERRC is 0 whenever ERR = 0, and a code of R200 otherwise (R33). -/
def StatusCoherent (s : State) : Prop :=
  (s.err = false → s.errc = 0#4) ∧
  (s.err = true → s.errc = errReservedCommand ∨ s.errc = errReadOnly ∨ s.errc = errLocked)

/-- In INITIALIZED every register but LAST_OUT holds a value (R118, R150). -/
def HoldsConfiguration (s : State) : Prop :=
  s.mode = .initialized → ∀ r : DataReg, r ≠ .lastOut → s.written.get r = true

/-- In UNINIT only configuration registers can hold a value, and no port does (R220, R230). -/
def NothingFormed (s : State) : Prop :=
  s.mode = .uninit →
    (∀ r : DataReg, r.isConfig = false → s.written.get r = false) ∧ s.actOutWritten = false ∧ s.dutyQ8Written = false

/-- In INITIALIZED, UPPER_NEG is the negation of UPPER (R27, R118). -/
def UpperNegFormed (s : State) : Prop :=
  s.mode = .initialized → s.regs.get .upperNeg = negatedUpper (s.regs.get .upper)

/-- In INITIALIZED, E3 holds 0 (R30). -/
def ThirdErrorZero (s : State) : Prop := s.mode = .initialized → s.regs.get .e3 = 0#32

/-- ACT_OUT and DUTY_Q8 hold values exactly when LAST_OUT does, and ACT_OUT equals LAST_OUT (R40). -/
def PortsMirror (s : State) : Prop :=
  s.actOutWritten = s.written.get .lastOut ∧ s.dutyQ8Written = s.written.get .lastOut ∧
  (s.written.get .lastOut = true → s.actOut = s.regs.get .lastOut)

/-- In INITIALIZED, a LAST_OUT that holds a value is not below LOWER (R165 item 2). -/
def FloorHeld (s : State) : Prop :=
  s.mode = .initialized → s.written.get .lastOut = true → s32 (s.regs.get .lower) ≤ s32 (s.regs.get .lastOut)

/-- A register's value lies in [−bound, bound]. -/
def WithinBound (bound : Int) (s : State) (r : DataReg) : Prop :=
  -bound ≤ s32 (s.regs.get r) ∧ s32 (s.regs.get r) ≤ bound

/-- In INITIALIZED with UPPER ≥ 0, the whole output history lies in [−UPPER, UPPER] (R158, R165 item 1). -/
def OutputsBounded (s : State) : Prop :=
  s.mode = .initialized → 0 ≤ s32 (s.regs.get .upper) →
    WithinBound (s32 (s.regs.get .upper)) s .u0 ∧ WithinBound (s32 (s.regs.get .upper)) s .u1 ∧
    WithinBound (s32 (s.regs.get .upper)) s .u2

/-- In INITIALIZED with REF in its design range, the error history lies in [−4095, 4095] (R156). -/
def ErrorsBounded (s : State) : Prop :=
  s.mode = .initialized → inDesignRange .ref (s.regs.get .ref) = true →
    WithinBound 4095 s .e0 ∧ WithinBound 4095 s .e1 ∧ WithinBound 4095 s .e2

/-- A STEP whose window may still be open was counted, and its block is INITIALIZED (R220, R226; log 9). -/
def StepCounted (s : State) : Prop := s.stepStart ≠ none → s.mode = .initialized ∧ 0 < s.doneCount

/-- The invariant of the block. -/
structure Inv (s : State) : Prop where
  status : StatusCoherent s
  configuration : HoldsConfiguration s
  unformed : NothingFormed s
  upperNeg : UpperNegFormed s
  thirdError : ThirdErrorZero s
  ports : PortsMirror s
  floor : FloorHeld s
  outputs : OutputsBounded s
  errors : ErrorsBounded s
  counted : StepCounted s

/-- The feed-back sum of one tick over the exact integers (R152): `us` holds the stored outputs, newest first. -/
def feedBackSum (x : RegFile Word) (us : List Int) : Int :=
  s32 (x.get .a1) * us.getD 0 0 + s32 (x.get .a2) * us.getD 1 0 + s32 (x.get .a3) * us.getD 2 0

/-- The feed-forward sum of one tick over the exact integers (R152): `es` holds the errors, newest first. -/
def feedForwardSum (x : RegFile Word) (es : List Int) : Int :=
  s32 (x.get .b0) * es.getD 0 0 + s32 (x.get .b1) * es.getD 1 0 + s32 (x.get .b2) * es.getD 2 0 +
    s32 (x.get .b3) * es.getD 3 0

/-- The closed form of R166: the stored outputs u(k), newest first, for the errors e(k), newest first. -/
def closedOutputs (x : RegFile Word) : List Int → List Int
  | [] => []
  | e :: es =>
    clampHiFirst (asr (asr (feedBackSum x (closedOutputs x es)) 3 + feedForwardSum x (e :: es)) 11)
      (s32 (x.get .upperNeg)) (s32 (x.get .upper)) :: closedOutputs x es

/-- An integer is its own 32-bit residue: no wrap occurs. -/
def InWord (v : Int) : Prop := -(2 ^ 31) ≤ v ∧ v < 2 ^ 31

/-- "While no wrap occurs" (R166): at every tick both stage sums and the new error are 32-bit values. -/
def NoWrap (x : RegFile Word) : List Int → Prop
  | [] => True
  | e :: es =>
    InWord e ∧ InWord (feedBackSum x (closedOutputs x es)) ∧
    InWord (asr (feedBackSum x (closedOutputs x es)) 3 + feedForwardSum x (e :: es)) ∧ NoWrap x es

/-- The errors of a list of samples in time order, newest first, over the exact integers (R166). -/
def errorsOf (ref : Word) (vs : List Sample) : List Int := (vs.map (fun v => s32 ref - v.toNat)).reverse

/-- The reference model's stored outputs, newest first, for the errors, newest first (R133). -/
def closedRefOutputs (x : RefState) : List Rat → List Rat
  | [] => []
  | e :: es =>
    let us := closedRefOutputs x es
    clampRat (x.fB0 * e + x.fB1 * es.getD 0 0 + x.fB2 * es.getD 1 0 + x.fB3 * es.getD 2 0 +
      (x.fA1 * us.getD 0 0 + x.fA2 * us.getD 1 0 + x.fA3 * us.getD 2 0)) (-x.fUpper) x.fUpper :: us

/-- The reference model after the samples of a list, in time order. -/
def exactRefRun (vs : List Int) (x : RefState) : RefState := vs.foldl (fun y v => exactRefStep v y) x

/-- The hardware's fixed-point ticks on a register file, in time order, from the captured samples. -/
def filterRun (vs : List Sample) (x : RegFile Word) : RegFile Word := vs.foldl (fun y v => filterStep v y) x

end Sys2Proof.Machine
end

