-- ==== Sys2Proof/Certificates/Slice0/Obligations.lean ====
section
/-! DEFINITION. The statements for the provers: what spec/'s numbered rules say the block does. -/

namespace Sys2Proof.Machine

/-- R82's six conditions, on the bits of the word. -/
def WordWellFormed (w : EventWord) : Prop :=
  w.extractLsb' 8 21 = 0#21 ∧
  (w.extractLsb' 29 3).toNat ≤ 4 ∧
  ((w.extractLsb' 29 3).toNat = 0 → w.extractLsb' 32 32 = 0#32 ∧ (w.extractLsb' 0 8).toNat % 4 = 0) ∧
  ((w.extractLsb' 29 3).toNat = 1 → (w.extractLsb' 0 8).toNat % 4 = 0) ∧
  ((w.extractLsb' 29 3).toNat = 2 ∨ (w.extractLsb' 29 3).toNat = 4 →
    w.extractLsb' 32 32 = 0#32 ∧ w.extractLsb' 0 8 = 0#8) ∧
  ((w.extractLsb' 29 3).toNat = 3 → w.extractLsb' 0 8 = 0#8 ∧ (w.extractLsb' 32 32).toNat < 2 ^ 12)

/-- A state as the next event meets it when that event is unstamped and `rest` is left to arrive after it: one event
consumed, no stamp, and no STEP in progress, which is R226 item 3's premise as the model takes it (R38, log 8). -/
def meetsUnstamped (rest : List Arrival) (s : State) : State :=
  { s with arrivals := rest, eventIndex := s.eventIndex + 1, now := none, stepStart := none }

/-- A state as the next event meets it when that event arrives in cycle `t` and `rest` is left to arrive after it. -/
def meetsStamped (t : Nat) (rest : List Arrival) (s : State) : State :=
  { s with arrivals := rest, eventIndex := s.eventIndex + 1, now := some t }

/-- The arrivals of cycle `t` end before `rest`: the next arrival there, if any, is not stamped with `t`. -/
def cycleEnds (t : Nat) (rest : List Arrival) : Prop := ∀ a : Arrival, rest.head? = some a → a.stamp ≠ some t

/-- Cycle `t` is not earlier than the current one. -/
def notBefore (t : Nat) (s : State) : Prop := ∀ earlier : Nat, s.now = some earlier → earlier ≤ t

/-- Arrivals stamped with cycle `t`, each of which spells an event. -/
def eventsOf (t : Nat) (cycle : List Arrival) : Prop :=
  ∀ a ∈ cycle, a.stamp = some t ∧ ∃ i : Instr, inputInstr a.input = .ok i

/-- The state after an interface error: the state before it, except ERR and ERRC, and those only if ERR was 0 (R200). -/
def afterError (code : BitVec 4) (s t : State) : Prop :=
  (s.err = false → t = { s with err := true, errc := code }) ∧ (s.err = true → t = s)

/-- Every register STEP reads holds a value. -/
def StepInputsHeld (s : State) : Prop := ∀ r ∈ stepReads, s.written.get r = true

/-- The shifted stage-1 value of a tick (R153, R154). -/
def feedBackValue (x : RegFile Word) : Int :=
  asr (wrap32 (s32 (x.get .a3) * s32 (x.get .u2) + s32 (x.get .a2) * s32 (x.get .u1) +
    s32 (x.get .a1) * s32 (x.get .u0))) 3

/-- The value of a tick before the saturation unit (R155, R157, R164), with the new error of R156. -/
def tickValue (fb : Sample) (x : RegFile Word) : Int :=
  asr (wrap32 (feedBackValue x + s32 (x.get .b3) * s32 (x.get .e2) + s32 (x.get .b2) * s32 (x.get .e1) +
    s32 (x.get .b1) * s32 (x.get .e0) + s32 (x.get .b0) * wrap32 (s32 (x.get .ref) - fb.toNat))) 11

/-- The symmetrically clamped value of a tick (R158). -/
def tickOutput (fb : Sample) (x : RegFile Word) : Int :=
  if tickValue fb x > s32 (x.get .upper) then s32 (x.get .upper)
  else if tickValue fb x < s32 (x.get .upperNeg) then s32 (x.get .upperNeg)
  else tickValue fb x

/-- The history registers STEP and INIT move: E0..E2 and U0..U2 (R43). -/
def delayLine : List DataReg := [.e0, .e1, .e2, .u0, .u1, .u2]

/-- The inputs whose coefficients are representable exactly in the fixed formats, with every configuration word in its
design range (R137, R114). -/
def ExactlyQuantized (inputs : InitializerInputs) (c : ConfigWords) : Prop :=
  quantize inputs = .ok c ∧
  toReal (s32 c.b0) 19 = inputs.rawB0 * inputs.gain ∧ toReal (s32 c.b1) 19 = inputs.rawB1 * inputs.gain ∧
  toReal (s32 c.b2) 19 = inputs.rawB2 * inputs.gain ∧ toReal (s32 c.b3) 19 = inputs.rawB3 * inputs.gain ∧
  toReal (s32 c.a1) 14 = inputs.rawA1 ∧ toReal (s32 c.a2) 14 = inputs.rawA2 ∧ toReal (s32 c.a3) 14 = inputs.rawA3 ∧
  inDesignRange .b0 c.b0 = true ∧ inDesignRange .b1 c.b1 = true ∧ inDesignRange .b2 c.b2 = true ∧
  inDesignRange .b3 c.b3 = true ∧ inDesignRange .a1 c.a1 = true ∧ inDesignRange .a2 c.a2 = true ∧
  inDesignRange .a3 c.a3 = true ∧ inDesignRange .ref c.ref = true ∧ inDesignRange .upper c.upper = true

end Sys2Proof.Machine

open Sys2Proof Sys2Proof.Machine

/-! ## Encoding -/

/-- Decoding the encoding of a well-formed instruction gives it back, with every operand (R80 to R84, R91). -/
def Obligations.EncodedEventDecodesBack : Prop :=
  ∀ i : Instr, i.wellFormed = true → decode (encode i) = .ok i

/-- Each word has one meaning: what a word decodes to is well formed and encodes to that word (R82, R86). -/
def Obligations.DecodedEventReencodes : Prop :=
  ∀ (w : EventWord) (i : Instr), decode w = .ok i → i.wellFormed = true ∧ encode i = w

/-- R88: mask and match of the opcode table decide the instruction, a word no row accepts spells none, the rows are
disjoint except CMD_RSVD, and CMD_RSVD matches every WR to offset 0x00. -/
def Obligations.OpcodeTableDecidesTheInstruction : Prop :=
  (∀ (w : EventWord) (i : Instr), decode w = .ok i → (opcodeRowOf w).map (fun row => row.mnemonic) = some i.mnemonic) ∧
  (∀ (w : EventWord) (e : DecodeError), decode w = .error e → opcodeRowOf w = none) ∧
  (∀ (w : EventWord) (row row' : OpcodeRow), row ∈ opcodeRows → row' ∈ opcodeRows → row ≠ row' →
    row.accepts w = true → row'.accepts w = true →
    (row.mnemonic = "CMD_RSVD" ∧ (row'.mnemonic = "INIT" ∨ row'.mnemonic = "STEP")) ∨
    (row'.mnemonic = "CMD_RSVD" ∧ (row.mnemonic = "INIT" ∨ row.mnemonic = "STEP"))) ∧
  (∃ row ∈ opcodeRows, row.mnemonic = "CMD_RSVD" ∧ ∀ data : Word, row.accepts (writeWord 0x00#8 data) = true)

/-- Words written out from the spec's encoding (R80, R81; vectors V-F30 and the rules' own examples) decode to what they stand for. -/
def Obligations.SpecEventWordsDecode : Prop :=
  decode 0x0000000120000000#64 = .ok .init ∧
  decode 0x0000000220000000#64 = .ok .step ∧
  decode 0x8000000120000000#64 = .ok (.cmdRsvd 0x80000001#32) ∧
  decode 0x0002666620000010#64 = .ok (.wrB0 157286#32) ∧
  decode 0xFFFFFFF620000038#64 = .ok (.wrLower 0xFFFFFFF6#32) ∧
  decode 0x0000000020000034#64 = .ok (.wrRo (.data .upperNeg) 0#32) ∧
  decode 0x00000007200000FC#64 = .ok (.wrRsvd 0xFC#8 7#32) ∧
  decode 0x000000000000005C#64 = .ok (.rd (.data .lastOut)) ∧
  decode 0x00000FFF60000000#64 = .ok (.sample 4095#12) ∧
  decode 0x0000000080000000#64 = .ok .reset ∧
  decode 0x0000000040000000#64 = .ok .trig ∧
  decode 0x00000000A0000000#64 = .error .reservedKind

/-- R82: a word decodes exactly when its six conditions hold; an ill-formed word is refused by name; a narrow or
misaligned access has no event word. -/
def Obligations.IllFormedWordIsRefused : Prop :=
  (∀ w : EventWord, WordWellFormed w ↔ ∃ i : Instr, decode w = .ok i) ∧
  (∀ (s : State) (stamp : Option Nat) (w : EventWord) (rest : List Arrival), s.arrivals = ⟨stamp, .word w⟩ :: rest →
    ¬ WordWellFormed w → step s = .refused (.illFormedEvent w)) ∧
  (∀ (a : BusAccess) (off : Nat), a.addr = Config.base + off → a.width ≠ 32 ∨ off % 4 ≠ 0 →
    ∀ w : EventWord, busWord a ≠ .ok w)

/-- R64: an access of 8 or 16 bits, or at an offset that is not a multiple of 4, is refused with its width and offset. -/
def Obligations.NarrowOrMisalignedAccessIsRefused : Prop :=
  ∀ (s : State) (stamp : Option Nat) (a : BusAccess) (off : Nat) (rest : List Arrival),
    s.arrivals = ⟨stamp, .bus a⟩ :: rest → a.addr = Config.base + off → off < 256 →
    a.width = 8 ∨ a.width = 16 ∨ off % 4 ≠ 0 →
    step s = .refused (.unsupportedAccess a.width off)

/-- R12, R62, R63: a 32-bit access at an aligned offset of the window performs the event that the RD or WR word of that
offset decodes to, unstamped (log 8) or stamped and alone in its cycle. -/
def Obligations.AlignedWordAccessIsItsEvent : Prop :=
  ∀ (a : BusAccess) (off : Nat), a.addr = Config.base + off → off < 256 → off % 4 = 0 → a.width = 32 →
    ∃ i : Instr, isBusEvent i = true ∧
      (a.write = none → decode (readWord (BitVec.ofNat 8 off)) = .ok i) ∧
      (∀ data : Word, a.write = some data → decode (writeWord (BitVec.ofNat 8 off) data) = .ok i) ∧
      (∀ (s : State) (rest : List Arrival), s.arrivals = ⟨none, .bus a⟩ :: rest →
        step s = exec i (meetsUnstamped rest s)) ∧
      (∀ (s : State) (t : Nat) (rest : List Arrival), s.arrivals = ⟨some t, .bus a⟩ :: rest → cycleEnds t rest →
        notBefore t s → step s = exec i (meetsStamped t rest s))

/-- R84: a WR word at offset 0x00 decodes by the whole DATA word. -/
def Obligations.CommandDecodesByWholeWord : Prop :=
  ∀ data : Word, decode (writeWord 0x00#8 data) =
    .ok (if data.toNat = 1 then .init else if data.toNat = 2 then .step else .cmdRsvd data)

/-- R83: what a well-formed WR, RD, TRIG, SAMPLE or RESET word decodes to. -/
def Obligations.EventDecodesByKindAndOffset : Prop :=
  (∀ data : Word,
    decode (writeWord 0x04#8 data) = .ok (.wrStatus data) ∧
    decode (writeWord 0x10#8 data) = .ok (.wrB0 data) ∧ decode (writeWord 0x14#8 data) = .ok (.wrB1 data) ∧
    decode (writeWord 0x18#8 data) = .ok (.wrB2 data) ∧ decode (writeWord 0x1C#8 data) = .ok (.wrB3 data) ∧
    decode (writeWord 0x20#8 data) = .ok (.wrA1 data) ∧ decode (writeWord 0x24#8 data) = .ok (.wrA2 data) ∧
    decode (writeWord 0x28#8 data) = .ok (.wrA3 data) ∧ decode (writeWord 0x2C#8 data) = .ok (.wrRef data) ∧
    decode (writeWord 0x30#8 data) = .ok (.wrUpper data) ∧ decode (writeWord 0x38#8 data) = .ok (.wrLower data) ∧
    (∃ i : Instr, decode (writeWord 0x00#8 data) = .ok i ∧
      i = if data = 1#32 then .init else if data = 2#32 then .step else .cmdRsvd data) ∧
    (∀ off : Offset, off.toNat % 4 = 0 → off = 0x08#8 ∨ off = 0x34#8 ∨ (0x40 ≤ off.toNat ∧ off.toNat ≤ 0x5C) →
      ∃ slot : Slot, slot.offset = off ∧ decode (writeWord off data) = .ok (.wrRo slot data)) ∧
    (∀ off : Offset, off.toNat % 4 = 0 → off = 0x0C#8 ∨ off = 0x3C#8 ∨ 0x60 ≤ off.toNat →
      decode (writeWord off data) = .ok (.wrRsvd off data))) ∧
  (∀ off : Offset, off.toNat % 4 = 0 → ∃ slot : Slot, slot.offset = off ∧ decode (readWord off) = .ok (.rd slot)) ∧
  decode (0#32 ++ 0b010#3 ++ 0#21 ++ 0#8) = .ok .trig ∧
  (∀ v : Sample, decode (0#20 ++ v ++ 0b011#3 ++ 0#21 ++ 0#8) = .ok (.sample v)) ∧
  decode (0#32 ++ 0b100#3 ++ 0#21 ++ 0#8) = .ok .reset

/-! ## The step -/

/-- A step runs the decoded event: unstamped, stamped and alone in its cycle, or placed by withFetchWord; with nothing
left to arrive the block holds its state (R38, R65, R209; how a transcript meets the block is the model's, logs 6 to 8). -/
def Obligations.StepRunsTheDecodedEvent : Prop :=
  (∀ (s : State) (w : EventWord) (i : Instr) (rest : List Arrival),
    s.arrivals = ⟨none, .word w⟩ :: rest → decode w = .ok i → step s = exec i (meetsUnstamped rest s)) ∧
  (∀ (s : State) (w : EventWord) (i : Instr) (t : Nat) (rest : List Arrival),
    s.arrivals = ⟨some t, .word w⟩ :: rest → decode w = .ok i → cycleEnds t rest → notBefore t s →
    step s = exec i (meetsStamped t rest s)) ∧
  (∀ (s : State) (nbits w : Nat) (i : Instr), decodeTableWord nbits w = some i →
    step (s.withFetchWord nbits w) = exec i (meetsUnstamped s.arrivals s)) ∧
  (∀ s : State, s.arrivals = [] → step s = .next s)

/-- R201, for every cycle of the transcript whose arrivals all spell events: a RESET discards every other event of its
cycle; where the cycle's first arrival is a TRIG and a bus access stands anywhere behind it, the first bus access is taken
and the TRIG with the others is left; in every other case the first arrival is taken (how a cycle's events stand in the
transcript is the model's, logs 8 and 10). -/
def Obligations.SameCycleEventsAreOrdered : Prop :=
  ∀ (s : State) (t : Nat) (later : List Arrival), cycleEnds t later → notBefore t s →
    (∀ cycle : List Arrival, s.arrivals = cycle ++ later → eventsOf t cycle →
      (∃ a ∈ cycle, inputInstr a.input = .ok .reset) →
      step s = exec .reset { s with arrivals := later, eventIndex := s.eventIndex + cycle.length, now := some t }) ∧
    (∀ (trigger access : Arrival) (between behind : List Arrival) (i : Instr),
      s.arrivals = trigger :: (between ++ access :: behind) ++ later →
      eventsOf t (trigger :: (between ++ access :: behind)) →
      (∀ a ∈ trigger :: (between ++ access :: behind), inputInstr a.input ≠ .ok .reset) →
      inputInstr trigger.input = .ok .trig → (∀ a ∈ between, spells isBusEvent a = false) →
      inputInstr access.input = .ok i → isBusEvent i = true →
      step s = exec i (meetsStamped t (trigger :: (between ++ behind) ++ later) s)) ∧
    (∀ (first : Arrival) (others : List Arrival) (i : Instr), s.arrivals = first :: others ++ later →
      eventsOf t (first :: others) → (∀ a ∈ first :: others, inputInstr a.input ≠ .ok .reset) →
      inputInstr first.input = .ok i → (i = .trig → ∀ a ∈ others, spells isBusEvent a = false) →
      step s = exec i (meetsStamped t (others ++ later) s))

/-- R38: the index counts the events consumed, and an unstamped event advances it by exactly one (the transcript is the
model's field, log 6). -/
def Obligations.EventIndexCountsEvents : Prop :=
  (∀ s t : State, step s = .next t → t.eventIndex + t.arrivals.length = s.eventIndex + s.arrivals.length) ∧
  (∀ (s t : State) (a : Arrival) (rest : List Arrival), s.arrivals = a :: rest → a.stamp = none → step s = .next t →
    t.eventIndex = s.eventIndex + 1 ∧ t.arrivals = rest)

/-- No event touches the transcript, its index or the current cycle; FB changes only by SAMPLE, the host's read data only
by RD, and the record of a read without a value only from none, by RD, STEP and TRIG (R39, R65, R180, R186; the two records
are the model's, logs 5 and 23). -/
def Obligations.EventsLeaveTheirSurroundings : Prop :=
  ∀ (i : Instr) (s t : State), exec i s = .next t →
    t.arrivals = s.arrivals ∧ t.eventIndex = s.eventIndex ∧ t.now = s.now ∧
    ((∀ v : Sample, i ≠ .sample v) → t.fb = s.fb ∧ t.fbDriven = s.fbDriven) ∧
    ((∀ slot : Slot, i ≠ .rd slot) → t.rdata = s.rdata) ∧
    ((∀ slot : Slot, i ≠ .rd slot) → i ≠ .step → i ≠ .trig → t.unwrittenRead = s.unwrittenRead) ∧
    (∀ r : DataReg, s.unwrittenRead = some r → t.unwrittenRead = some r)

/-! ## Arithmetic and formats -/

/-- R6: wrap32(v) is the unique 32-bit signed integer congruent to v modulo 2^32. -/
def Obligations.WrapIsTheUniqueResidue : Prop :=
  ∀ v : Int, InWord (wrap32 v) ∧ (2 ^ 32 : Int) ∣ v - wrap32 v ∧
    ∀ w : Int, InWord w → (2 ^ 32 : Int) ∣ v - w → w = wrap32 v

/-- R9: asr(v, s) is ⌊v / 2^s⌋. -/
def Obligations.ShiftIsFloorDivision : Prop :=
  (∀ (v : Int) (s : Nat), s < 32 → asr v s = ⌊(v : ℚ) / 2 ^ s⌋) ∧ asr (-1) 8 = -1 ∧ asr (-257) 8 = -2

/-- R108: a Q(·,8) word is 256 times its coarse duty value plus its 8 low-order bits. -/
def Obligations.DutySplitIsExact : Prop :=
  ∀ w : Word, s32 w = 256 * asr (s32 w) 8 + (w.extractLsb' 0 8).toNat ∧ coarseDuty w = asr (s32 w) 8 ∧
    fineDuty w = w.extractLsb' 0 8

/-- R10, R104: conversion from a real value truncates toward zero, for both signs. -/
def Obligations.ConversionTruncatesTowardZero : Prop :=
  ∀ (x : Rat) (f : Nat),
    (0 ≤ x → 0 ≤ fromReal x f ∧ (fromReal x f : Rat) ≤ x * 2 ^ f ∧ x * 2 ^ f < (fromReal x f : Rat) + 1) ∧
    (x < 0 → fromReal x f ≤ 0 ∧ (fromReal x f : Rat) - 1 < x * 2 ^ f ∧ x * 2 ^ f ≤ (fromReal x f : Rat))

/-- R113, R115, R116: the words the host writes hold the quantized values, ten words come out whenever every value fits in
32 bits, and a quantized value outside 32 bits is refused with its register's name. -/
def Obligations.QuantizedWordsHoldTheirValues : Prop :=
  (∀ (x : InitializerInputs) (c : ConfigWords), quantize x = .ok c →
    s32 c.b0 = truncRat (x.rawB0 * x.gain * 2 ^ 19) ∧ s32 c.b1 = truncRat (x.rawB1 * x.gain * 2 ^ 19) ∧
    s32 c.b2 = truncRat (x.rawB2 * x.gain * 2 ^ 19) ∧ s32 c.b3 = truncRat (x.rawB3 * x.gain * 2 ^ 19) ∧
    s32 c.a1 = truncRat (x.rawA1 * 2 ^ 14) ∧ s32 c.a2 = truncRat (x.rawA2 * 2 ^ 14) ∧
    s32 c.a3 = truncRat (x.rawA3 * 2 ^ 14) ∧ s32 c.ref = x.reference ∧
    s32 c.upper = truncRat ((x.pwmMax - 1) * 2 ^ 8) ∧ s32 c.lower = x.pwmMin) ∧
  (∀ x : InitializerInputs, (∀ r ∈ configRegs, InWord (quantizedValue x r)) → ∃ c : ConfigWords, quantize x = .ok c) ∧
  (∀ (x : InitializerInputs) (r : DataReg), r ≠ .ref → r ≠ .lower → ¬ InWord (quantizedValue x r) →
    quantizedWord x r = .error (.quantizerOverflow r (quantizedValue x r)))

/-! ## Register access, STATUS and errors -/

/-- RD outside a STEP window: CMD and reserved offsets read 0, SHIFTS its constant, STATUS its word, a data register its
word; nothing else changes (R180). Of a register that holds no value, the completion, the word (its contents) and the
record that keeps the first such register are the model's choice (logs 1 and 23). -/
def Obligations.ReadReturnsTheRegister : Prop :=
  ∀ s : State, stepInProgress s = false →
    exec (.rd .cmd) s = .next { s with rdata := 0#32 } ∧
    (∀ off : Offset, isReservedOffset off = true → exec (.rd (.reserved off)) s = .next { s with rdata := 0#32 }) ∧
    exec (.rd .status) s = .next { s with rdata := statusWord s } ∧
    exec (.rd .shifts) s = .next { s with rdata := 0x00080B03#32 } ∧
    (∀ r : DataReg,
      (s.written.get r = true → exec (.rd (.data r)) s = .next { s with rdata := s.regs.get r }) ∧
      (s.written.get r = false → exec (.rd (.data r)) s =
        .next { s with rdata := s.regs.get r, unwrittenRead := s.unwrittenRead <|> some r }))

/-- R181: the STATUS word a read returns is ERRC << 4 | ERR << 1 | INIT. -/
def Obligations.StatusReadsItsFields : Prop :=
  (∀ s : State, stepInProgress s = false → ∃ t : State, exec (.rd .status) s = .next t ∧
    t.rdata.toNat = s.errc.toNat * 16 + s.err.toNat * 2 + (if s.mode = .initialized then 1 else 0)) ∧
  (∃ t : State, exec (.rd .status) State.reset = .next t ∧ t.rdata = 0#32)

/-- R68: a read changes nothing but the data it returns, and outside a STEP window a second read returns the same word and
changes nothing at all (the draw counter and the record of a read without a value are the model's, logs 4 and 23). -/
def Obligations.ReadHasNoSideEffect : Prop :=
  ∀ (slot : Slot) (s t : State), exec (.rd slot) s = .next t →
    t = { s with rdata := t.rdata, draws := t.draws, unwrittenRead := t.unwrittenRead } ∧
    (stepInProgress s = false → t.draws = s.draws ∧ exec (.rd slot) t = .next t)

/-- R61: byte k of the register at offset `off` is its bits 8k+7:8k. -/
def Obligations.WindowIsLittleEndian : Prop :=
  ∀ (s : State) (slot : Slot) (k : Fin 4), slot.wellFormed = true →
    windowByte s (slot.offset + BitVec.ofNat 8 k.val) = (readSlot slot s).extractLsb' (8 * k.val) 8

/-- R182: a write to STATUS clears ERR and ERRC when DATA[1] = 1, and otherwise has no effect. -/
def Obligations.StatusWriteClearsTheError : Prop :=
  ∀ data : Word, decode (writeWord 0x04#8 data) = .ok (.wrStatus data) ∧
    ∀ s : State, stepInProgress s = false →
      (data.getLsbD 1 = true → exec (.wrStatus data) s = .next { s with err := false, errc := 0#4 }) ∧
      (data.getLsbD 1 = false → exec (.wrStatus data) s = .next s)

/-- R183: a reserved command word reports error code 1 and changes nothing else. -/
def Obligations.ReservedCommandIsReported : Prop :=
  ∀ data : Word, data ≠ 1#32 → data ≠ 2#32 → decode (writeWord 0x00#8 data) = .ok (.cmdRsvd data) ∧
    ∀ s : State, stepInProgress s = false → ∃ t : State, exec (.cmdRsvd data) s = .next t ∧ afterError 1#4 s t

/-- R184: a write to a read-only register or a reserved offset reports error code 2 and changes nothing else. -/
def Obligations.ReadOnlyWriteIsReported : Prop :=
  ∀ data : Word,
    (∀ slot : Slot, slot.isReadOnly = true → decode (writeWord slot.offset data) = .ok (.wrRo slot data) ∧
      ∀ s : State, stepInProgress s = false → ∃ t : State, exec (.wrRo slot data) s = .next t ∧ afterError 2#4 s t) ∧
    (∀ off : Offset, isReservedOffset off = true → decode (writeWord off data) = .ok (.wrRsvd off data) ∧
      ∀ s : State, stepInProgress s = false → ∃ t : State, exec (.wrRsvd off data) s = .next t ∧ afterError 2#4 s t)

/-- R200: ERR is set by exactly the reserved command (code 1), the read-only and reserved writes (code 2) and the locked
configuration writes (code 3), the event that sets it has no other effect, and outside a STEP window each of them reports
its code. -/
def Obligations.ErrorsHaveExactlyThreeCauses : Prop :=
  (∀ (i : Instr) (s t : State), exec i s = .next t → s.err = false → t.err = true →
    t = { s with err := true, errc := t.errc } ∧
    ((t.errc = 1#4 ∧ ∃ data : Word, i = .cmdRsvd data) ∨
     (t.errc = 2#4 ∧ ((∃ (slot : Slot) (data : Word), i = .wrRo slot data) ∨
       ∃ (off : Offset) (data : Word), i = .wrRsvd off data)) ∨
     (t.errc = 3#4 ∧ s.mode = .initialized ∧
       ∃ (r : DataReg) (data : Word), r.isConfig = true ∧ i = decodeDataWrite r data))) ∧
  (∀ (i : Instr) (s : State), i.wellFormed = true → stepInProgress s = false →
    ((∃ data : Word, i = .cmdRsvd data) → ∃ t : State, exec i s = .next t ∧ afterError 1#4 s t) ∧
    ((∃ (slot : Slot) (data : Word), i = .wrRo slot data) ∨ (∃ (off : Offset) (data : Word), i = .wrRsvd off data) →
      ∃ t : State, exec i s = .next t ∧ afterError 2#4 s t) ∧
    (s.mode = .initialized → (∃ (r : DataReg) (data : Word), r.isConfig = true ∧ i = decodeDataWrite r data) →
      ∃ t : State, exec i s = .next t ∧ afterError 3#4 s t))

/-- R185: while ERR is 1 the first cause is kept, until a write-1-to-clear or a RESET. -/
def Obligations.FirstErrorCauseIsKept : Prop :=
  ∀ (i : Instr) (s t : State), exec i s = .next t → s.err = true →
    (t.err = true ∧ t.errc = s.errc) ∨ (∃ data : Word, i = .wrStatus data ∧ data.getLsbD 1 = true) ∨ i = .reset

/-- R186: SAMPLE drives FB in every mode and changes nothing else; the value is what the next STEP captures, and before
any SAMPLE the captured value is a free value (the model's form of R186's draw, logs 3 and 4). -/
def Obligations.SampleDrivesThePort : Prop :=
  ∀ (v : Sample) (s : State),
    exec (.sample v) s = .next { s with fb := v, fbDriven := true } ∧
    (∀ t : State, exec (.sample v) s = .next t → captureFb t = v) ∧
    (s.fbDriven = false → captureFb s = Config.freeSample s.draws)

/-! ## Configuration and INIT -/

/-- R111: a configuration write (WR_B0..WR_B3, WR_A1..WR_A3, WR_REF, WR_UPPER, WR_LOWER) loads its register in UNINIT; in
INITIALIZED it is discarded and reports error code 3. -/
def Obligations.ConfigurationWriteLoadsOrIsLocked : Prop :=
  ∀ (r : DataReg) (data : Word), r.isConfig = true →
    decode (writeWord r.offset data) = .ok (decodeDataWrite r data) ∧
    ∀ s : State, stepInProgress s = false → ∃ t : State, exec (decodeDataWrite r data) s = .next t ∧
      (s.mode = .uninit → t = { s with regs := t.regs, written := t.written } ∧
        (∀ q : DataReg, t.regs.get q = if q = r then data else s.regs.get q) ∧
        (∀ q : DataReg, t.written.get q = if q = r then true else s.written.get q)) ∧
      (s.mode = .initialized → afterError 3#4 s t)

/-- R118: INIT on a complete configuration zeroes E0..E3 and U0..U2, forms UPPER_NEG = wrap32(−UPPER), sets the mode, and
leaves ERR, ERRC, LAST_OUT, the configuration and everything else as they were; on an incomplete one it faults. -/
def Obligations.InitCommitsTheConfiguration : Prop :=
  decode 0x0000000120000000#64 = .ok .init ∧
  (∀ (s : State) (r : DataReg), stepInProgress s = false → firstUnwritten s configRegs = some r →
    exec .init s = .fault (.initUnconfigured r)) ∧
  ∀ s : State, stepInProgress s = false → (∀ r ∈ configRegs, s.written.get r = true) →
    ∃ t : State, exec .init s = .next t ∧
      t = { s with mode := .initialized, regs := t.regs, written := t.written } ∧
      (∀ r ∈ historyRegs, t.regs.get r = 0#32 ∧ t.written.get r = true) ∧
      s32 (t.regs.get .upperNeg) = wrap32 (0 - s32 (s.regs.get .upper)) ∧ t.written.get .upperNeg = true ∧
      (∀ r : DataReg, r ∉ historyRegs → r ≠ .upperNeg →
        t.regs.get r = s.regs.get r ∧ t.written.get r = s.written.get r)

/-- R119: INIT with an incomplete configuration faults with the first register of R118's order that holds no value. -/
def Obligations.InitNeedsTheWholeConfiguration : Prop :=
  ∀ (s : State) (before after : List DataReg) (r : DataReg), stepInProgress s = false →
    [.b0, .b1, .b2, .b3, .a1, .a2, .a3, .ref, .upper, .lower] = before ++ r :: after →
    (∀ q ∈ before, s.written.get q = true) → s.written.get r = false →
    exec .init s = .fault (.initUnconfigured r)

/-- R120: outside a STEP window the ten configuration writes may come in any order, and the configuration, the history, UPPER_NEG and the mode
after INIT are a function of the written words alone. -/
def Obligations.ConfigurationOrderIsIrrelevant : Prop :=
  (∀ (c : ConfigWords) (order : List Instr) (s : State), stepInProgress s = false → s.mode = .uninit →
    order.Perm (configEvents c) → execAll (order ++ [.init]) s = execAll (configEvents c ++ [.init]) s) ∧
  (∀ (c : ConfigWords) (s s' : State), stepInProgress s = false → stepInProgress s' = false →
    s.mode = .uninit → s'.mode = .uninit →
    ∃ t t' : State, execAll (configEvents c ++ [.init]) s = .next t ∧ execAll (configEvents c ++ [.init]) s' = .next t' ∧
      t.mode = t'.mode ∧ ∀ r : DataReg, r ≠ .lastOut →
        t.regs.get r = t'.regs.get r ∧ t.written.get r = true ∧ t'.written.get r = true)

/-! ## STEP and TRIG -/

/-- R163: STEP and TRIG in UNINIT fault. -/
def Obligations.StepBeforeInitFaults : Prop :=
  ∀ s : State, stepInProgress s = false → s.mode = .uninit →
    exec .step s = .fault .stepBeforeInit ∧ exec .trig s = .fault .stepBeforeInit

/-- R150 to R162: STEP, and TRIG alike, complete in INITIALIZED with one tick: the delay lines shift by one slot, E0 is the
new error, U0 the clamped value, LAST_OUT the floored output, the ports follow, one DONE is emitted, and E3, the
configuration, STATUS and everything else stay. The DONE count, the STEP's cycle and the record of a read without a value,
which can change only where an input holds none, are the model's (logs 5, 8, 9, 14, 23). -/
def Obligations.StepPerformsOneTick : Prop :=
  ∀ s : State, stepInProgress s = false → s.mode = .initialized →
    ∃ t : State, exec .step s = .next t ∧ exec .trig s = .next t ∧
      s32 (t.regs.get .e0) = wrap32 (s32 (s.regs.get .ref) - (captureFb s).toNat) ∧
      t.regs.get .e1 = s.regs.get .e0 ∧ t.regs.get .e2 = s.regs.get .e1 ∧ t.regs.get .e3 = s.regs.get .e3 ∧
      s32 (t.regs.get .u0) = tickOutput (captureFb s) s.regs ∧
      t.regs.get .u1 = s.regs.get .u0 ∧ t.regs.get .u2 = s.regs.get .u1 ∧
      s32 (t.regs.get .lastOut) = max (asr (tickOutput (captureFb s) s.regs) 8) (s32 (s.regs.get .lower)) ∧
      (∀ r : DataReg, r ∉ stepWrites → t.regs.get r = s.regs.get r ∧ t.written.get r = s.written.get r) ∧
      (∀ r ∈ stepWrites, t.written.get r = true) ∧
      t.actOut = t.regs.get .lastOut ∧ t.dutyQ8 = t.regs.get .u0 ∧
      t = { s with regs := t.regs, written := t.written, actOut := t.actOut, dutyQ8 := t.dutyQ8, actOutWritten := true,
                   dutyQ8Written := true, doneCount := s.doneCount + 1, draws := t.draws, stepStart := s.now,
                   unwrittenRead := t.unwrittenRead } ∧
      (s.fbDriven = true → t.draws = s.draws) ∧
      (StepInputsHeld s → t.unwrittenRead = s.unwrittenRead)

/-- R152: within a stage, wrapping every partial sum equals wrapping the exact stage sum once. -/
def Obligations.StageSumsWrapOnce : Prop :=
  ∀ (x : RegFile Word) (fb : Sample) (acc : Int),
    (feedBackStage x).1 = wrap32 (s32 (x.get .a3) * s32 (x.get .u2) + s32 (x.get .a2) * s32 (x.get .u1) +
      s32 (x.get .a1) * s32 (x.get .u0)) ∧
    (feedForwardStage fb acc x).1 = wrap32 (acc + s32 (x.get .b3) * s32 (x.get .e2) +
      s32 (x.get .b2) * s32 (x.get .e1) + s32 (x.get .b1) * s32 (x.get .e0) +
      s32 (x.get .b0) * wrap32 (s32 (x.get .ref) - fb.toNat))

/-- R164: the value the saturation unit gets is asr(wrap32(asr(wrap32(ΣA·U), 3) + ΣB·E), 11), in whatever order the
terms of each stage are added. -/
def Obligations.TickValueIsIndependentOfTermOrder : Prop :=
  ∀ (x : RegFile Word) (fb : Sample) (feedBack feedForward : List Int),
    feedBack.Perm [s32 (x.get .a1) * s32 (x.get .u0), s32 (x.get .a2) * s32 (x.get .u1),
      s32 (x.get .a3) * s32 (x.get .u2)] →
    feedForward.Perm [s32 (x.get .b0) * wrap32 (s32 (x.get .ref) - fb.toNat), s32 (x.get .b1) * s32 (x.get .e0),
      s32 (x.get .b2) * s32 (x.get .e1), s32 (x.get .b3) * s32 (x.get .e2)] →
    s32 ((filterStep fb x).get .u0) =
      clampHiFirst (asr (wrap32 (asr (wrap32 feedBack.sum) 3 + feedForward.sum)) 11)
        (s32 (x.get .upperNeg)) (s32 (x.get .upper))

/-- R157: after stage 2 and SHIFT_B the accumulator of a tick, the value the symmetric clamp gets for U0, lies in
[−2^20, 2^20 − 1]; so does every stage-2 sum, shifted. -/
def Obligations.ShiftedAccumulatorFitsItsFormat : Prop :=
  Config.shiftB = 11 ∧
  (∀ (x : RegFile Word) (fb : Sample) (acc : Int),
    -(2 ^ 20) ≤ asr (feedForwardStage fb acc x).1 11 ∧ asr (feedForwardStage fb acc x).1 11 ≤ 2 ^ 20 - 1) ∧
  (∀ (x : RegFile Word) (fb : Sample), ∃ acc : Int, -(2 ^ 20) ≤ acc ∧ acc ≤ 2 ^ 20 - 1 ∧
    acc = asr (feedForwardStage fb (asr (feedBackStage x).1 3) (feedBackStage x).2).1 11 ∧
    s32 ((filterStep fb x).get .u0) = clampHiFirst acc (s32 (x.get .upperNeg)) (s32 (x.get .upper)))

/-- R100, R106, R107: each accumulator value of a tick fits its format where the table gives a width, so does the sample,
and the three shifts are the differences of the fractional bits they join. -/
def Obligations.TickValuesFitTheirFormats : Prop :=
  (∀ (x : RegFile Word) (fb : Sample) (acc : Int),
    (∀ f : FixedPointFormat, accFormat .feedBack = some f → f.fits (feedBackStage x).1 = true) ∧
    (∀ f : FixedPointFormat, accFormat .feedForward = some f → f.fits (feedForwardStage fb acc x).1 = true) ∧
    (∀ f : FixedPointFormat, accFormat .afterShiftB = some f →
      f.fits (rescale (feedForwardStage fb acc x).1 (accFraction .feedForward) (accFraction .afterShiftB)) = true) ∧
    sampleFormat.fits (fb.toNat : Int) = true) ∧
  accFormat .feedBack = some ⟨32, 22⟩ ∧ accFormat .afterShiftA = none ∧ accFormat .feedForward = some ⟨32, 19⟩ ∧
  accFormat .afterShiftB = some ⟨21, 8⟩ ∧
  productFraction (registerFormat .a1) (registerFormat .u0) = accFraction .feedBack ∧
  productFraction (registerFormat .b0) (registerFormat .e0) = accFraction .feedForward ∧
  Config.shiftA = accFraction .feedBack - accFraction .afterShiftA ∧
  Config.shiftB = accFraction .feedForward - accFraction .afterShiftB ∧
  Config.shiftOut = (registerFormat .u0).fractionalBits - (registerFormat .lastOut).fractionalBits

/-- R156: the new error is wrap32(REF − fb), written to E0 before the B0 product, which multiplies it; for REF in its design
range it lies within ±(2^12 − 1) and no wrap occurs. -/
def Obligations.NewErrorStaysInRange : Prop :=
  ∀ (x : RegFile Word) (fb : Sample),
    s32 ((filterStep fb x).get .e0) = wrap32 (s32 (x.get .ref) - fb.toNat) ∧
    (∀ acc : Int, (feedForwardStage fb acc x).1 =
      wrap32 (wrap32 (acc + s32 (x.get .b3) * s32 (x.get .e2) + s32 (x.get .b2) * s32 (x.get .e1) +
        s32 (x.get .b1) * s32 (x.get .e0)) + s32 (x.get .b0) * s32 ((filterStep fb x).get .e0))) ∧
    (0 ≤ s32 (x.get .ref) → s32 (x.get .ref) ≤ 2 ^ 12 - 1 →
      s32 ((filterStep fb x).get .e0) = s32 (x.get .ref) - fb.toNat ∧
      -(2 ^ 12 - 1) ≤ s32 ((filterStep fb x).get .e0) ∧ s32 ((filterStep fb x).get .e0) ≤ 2 ^ 12 - 1)

/-- R158, R160: the symmetric clamp tests UPPER first and stores U0; LAST_OUT is the floor of U0 / 2^8, raised to LOWER
and not clamped above again; no other register changes. -/
def Obligations.SaturationUnitClampsAndExtracts : Prop :=
  ∀ (x : RegFile Word) (acc : Int), InWord acc →
    (acc > s32 (x.get .upper) → (saturate acc x).get .u0 = x.get .upper) ∧
    (¬ acc > s32 (x.get .upper) → acc < s32 (x.get .upperNeg) → (saturate acc x).get .u0 = x.get .upperNeg) ∧
    (¬ acc > s32 (x.get .upper) → ¬ acc < s32 (x.get .upperNeg) → s32 ((saturate acc x).get .u0) = acc) ∧
    (asr (s32 ((saturate acc x).get .u0)) 8 < s32 (x.get .lower) → (saturate acc x).get .lastOut = x.get .lower) ∧
    (¬ asr (s32 ((saturate acc x).get .u0)) 8 < s32 (x.get .lower) →
      s32 ((saturate acc x).get .lastOut) = asr (s32 ((saturate acc x).get .u0)) 8) ∧
    (∀ r : DataReg, r ≠ .u0 → r ≠ .lastOut → (saturate acc x).get r = x.get r)

/-- R165: the consequences of the asymmetric clamp. -/
def Obligations.AsymmetricClampBoundsTheOutputs : Prop :=
  ∀ (x : RegFile Word) (fb : Sample),
    (s32 (x.get .upperNeg) ≤ s32 (x.get .upper) →
      s32 (x.get .upperNeg) ≤ s32 ((filterStep fb x).get .u0) ∧ s32 ((filterStep fb x).get .u0) ≤ s32 (x.get .upper) ∧
      s32 ((filterStep fb x).get .lastOut) ≤ max (asr (s32 (x.get .upper)) 8) (s32 (x.get .lower)) ∧
      (s32 ((filterStep fb x).get .lastOut) > asr (s32 (x.get .upper)) 8 →
        s32 (x.get .lower) > asr (s32 (x.get .upper)) 8 ∧ (filterStep fb x).get .lastOut = x.get .lower)) ∧
    s32 (x.get .lower) ≤ s32 ((filterStep fb x).get .lastOut) ∧
    (s32 ((filterStep fb x).get .u0) = -1 → x.get .lower = 0#32 →
      asr (s32 ((filterStep fb x).get .u0)) 8 = -1 ∧ (filterStep fb x).get .lastOut = 0#32)

/-- R166: while no wrap occurs, the ticks after an INIT follow the closed form: E0..E2 and U0..U2 are the lagged errors and
stored outputs, and LAST_OUT is the floored output. -/
def Obligations.TicksFollowTheClosedForm : Prop :=
  ∀ (s : State) (vs : List Sample), vs ≠ [] → s.now = none → s.mode = .initialized →
    (∀ r ∈ historyRegs, s.regs.get r = 0#32) → NoWrap s.regs (errorsOf (s.regs.get .ref) vs) →
    ∃ t : State, execAll (ticks vs) s = .next t ∧
      let es := errorsOf (s.regs.get .ref) vs
      let us := closedOutputs s.regs es
      s32 (t.regs.get .e0) = es.getD 0 0 ∧ s32 (t.regs.get .e1) = es.getD 1 0 ∧ s32 (t.regs.get .e2) = es.getD 2 0 ∧
      s32 (t.regs.get .u0) = us.getD 0 0 ∧ s32 (t.regs.get .u1) = us.getD 1 0 ∧ s32 (t.regs.get .u2) = us.getD 2 0 ∧
      s32 (t.regs.get .lastOut) = floorClamp (asr (us.getD 0 0) 8) (s32 (s.regs.get .lower))

/-- R167: STEP is a function of the registers it reads and the captured sample alone. -/
def Obligations.StepDependsOnItsInputsAlone : Prop :=
  ∀ s s' t t' : State, exec .step s = .next t → exec .step s' = .next t' → captureFb s = captureFb s' →
    (∀ r ∈ stepReads, s.regs.get r = s'.regs.get r) →
    (∀ r ∈ stepWrites, t.regs.get r = t'.regs.get r) ∧ t.actOut = t'.actOut ∧ t.dutyQ8 = t'.dutyQ8

/-- §8's init purity (D41): after INIT on the same configuration the same samples give the same registers, whatever
history, errors and outputs the block had before. -/
def Obligations.InitForgetsTheHistory : Prop :=
  ∀ (s s' t t' : State) (vs : List Sample), vs ≠ [] → s.now = none → s'.now = none →
    (∀ r ∈ configRegs, s.regs.get r = s'.regs.get r) →
    execAll (.init :: ticks vs) s = .next t → execAll (.init :: ticks vs) s' = .next t' →
    (∀ r : DataReg, t.regs.get r = t'.regs.get r) ∧ t.actOut = t'.actOut ∧ t.dutyQ8 = t'.dutyQ8

/-! ## RESET, modes and whole-machine rules -/

/-- R220: RESET completes in every state: UNINIT, STATUS 0, no register and no port holds a value, FB unchanged; the host's
read data, the record of a read without a value (R203: not cleared by RESET; log 23) and the transcript are untouched. A
STEP in its window is abandoned and its DONE is not counted (log 9). -/
def Obligations.ResetClearsTheBlock : Prop :=
  ∀ s : State, ∃ t : State, exec .reset s = .next t ∧
    t.mode = .uninit ∧ statusWord t = 0#32 ∧ (∀ r : DataReg, t.written.get r = false) ∧
    t.actOutWritten = false ∧ t.dutyQ8Written = false ∧ t.fb = s.fb ∧ t.fbDriven = s.fbDriven ∧
    readSlot .shifts t = 0x00080B03#32 ∧ t.stepStart = none ∧ stepInProgress t = false ∧
    t.rdata = s.rdata ∧ t.draws = s.draws ∧ t.unwrittenRead = s.unwrittenRead ∧ t.now = s.now ∧
    t.arrivals = s.arrivals ∧ t.eventIndex = s.eventIndex ∧
    (stepInProgress s = false → t.doneCount = s.doneCount) ∧ (stepInProgress s = true → t.doneCount = s.doneCount - 1)

/-- R222: power-on is equivalent to a RESET: after a RESET every slot of the window reads as in the state at power-on, and
mode, STATUS and the value flags are the same. That a register without a value reads alike in both is the model's choice of
its contents (log 1), not R222's. -/
def Obligations.PowerOnIsEquivalentToReset : Prop :=
  ∀ s t : State, exec .reset s = .next t →
    t.mode = State.reset.mode ∧ t.written = State.reset.written ∧ t.actOutWritten = State.reset.actOutWritten ∧
    t.dutyQ8Written = State.reset.dutyQ8Written ∧ ∀ slot : Slot, readSlot slot t = readSlot slot State.reset

/-- R36: RESET enters UNINIT, INIT enters INITIALIZED, STEP in UNINIT faults, no other event changes the mode, and
STATUS.INIT mirrors it. -/
def Obligations.ModeChangesOnlyByInitAndReset : Prop :=
  (∀ (i : Instr) (s t : State), exec i s = .next t →
    (i = .reset → t.mode = .uninit) ∧ (i = .init → t.mode = .initialized) ∧
    (i ≠ .reset → i ≠ .init → t.mode = s.mode) ∧ (i = .step ∨ i = .trig → s.mode = .initialized)) ∧
  (∀ s : State, s.mode = .uninit → ∃ f : Fault, exec .step s = .fault f) ∧
  (∀ s : State, (statusWord s).getLsbD 0 = decide (s.mode = .initialized))

/-- R42: while INITIALIZED, the configuration, the reference and the bounds do not change. -/
def Obligations.ConfigurationIsImmutable : Prop :=
  ∀ s t : State, UpperNegFormed s → step s = .next t → s.mode = .initialized → t.mode = .initialized →
    ∀ r : DataReg, r = .upperNeg ∨ r.isConfig = true →
      t.regs.get r = s.regs.get r ∧ (r ≠ .upperNeg → t.written.get r = s.written.get r)

/-- R43: but for RESET, the delay lines change only by INIT, which zeroes them, and by a STEP, which shifts each by one
slot and drops the old E2 and U2. -/
def Obligations.HistoryMovesOnlyByInitAndStep : Prop :=
  ∀ (i : Instr) (s t : State), exec i s = .next t → i ≠ .reset →
    (i = .init → ∀ r ∈ delayLine, t.regs.get r = 0#32) ∧
    (i = .step ∨ i = .trig → t.regs.get .e1 = s.regs.get .e0 ∧ t.regs.get .e2 = s.regs.get .e1 ∧
      t.regs.get .u1 = s.regs.get .u0 ∧ t.regs.get .u2 = s.regs.get .u1) ∧
    (i ≠ .init → i ≠ .step → i ≠ .trig → ∀ r ∈ delayLine, t.regs.get r = s.regs.get r)

/-- The state after reset has the block's invariant. -/
def Obligations.ResetStateHasTheInvariant : Prop := Inv State.reset

/-- Every step keeps the block's invariant: STATUS is coherent, INITIALIZED holds a whole configuration with UPPER_NEG and
E3 as INIT formed them, nothing is formed in UNINIT, the ports mirror LAST_OUT, LAST_OUT is not below LOWER, and with
UPPER and REF in their design ranges the histories stay in theirs (R33, R118, R220, R27, R30, R40, R165, R156). Its last
part, on the DONE count of a STEP in its window, is the model's bookkeeping (log 9). -/
def Obligations.EveryStepKeepsTheInvariant : Prop := ∀ s t : State, Inv s → step s = .next t → Inv t

/-- R150: in INITIALIZED a STEP or TRIG outside a STEP window never faults, and with the invariant it reads no register
without a value (R150's "no UnwrittenRead fault can arise", said of the model's record, log 23). -/
def Obligations.InitializedTickAlwaysCompletes : Prop :=
  ∀ s : State, stepInProgress s = false → s.mode = .initialized →
    ∃ t : State, exec .step s = .next t ∧ exec .trig s = .next t ∧ t.doneCount = s.doneCount + 1 ∧
      (Inv s → StepInputsHeld s ∧ t.unwrittenRead = s.unwrittenRead)

/-- R203: no event is refused, and the faults are the named ones, each raised by the events and under the condition R203
gives. R203's UnwrittenRead is a record in this model (log 23): in a state that has the invariant it is made exactly by an
RD, outside a STEP window, of a register that holds no value. -/
def Obligations.FaultsAreExactlyTheNamedOnes : Prop :=
  (∀ (i : Instr) (s : State) (r : Refusal), exec i s ≠ .refused r) ∧
  (∀ (i : Instr) (s : State) (f : Fault), exec i s = .fault f →
    (f = .overlap ∧ stepInProgress s = true ∧ (i = .trig ∨ isBusWrite i = true)) ∨
    (f = .stepBeforeInit ∧ s.mode = .uninit ∧ (i = .step ∨ i = .trig)) ∨
    (∃ r : DataReg, f = .initUnconfigured r ∧ i = .init ∧ r ∈ configRegs ∧ s.written.get r = false)) ∧
  (∀ (i : Instr) (s t : State), Inv s → exec i s = .next t → s.unwrittenRead = none → ∀ r : DataReg,
    (t.unwrittenRead = some r ↔ i = .rd (.data r) ∧ stepInProgress s = false ∧ s.written.get r = false))

/-- R226: inside the STEP window a TRIG or a bus write faults and a bus read returns a free value; the window opens in the
STEP's cycle and closes STEP_CYCLES cycles later (the stamped form is the model's, logs 8 and 13). -/
def Obligations.StepWindowIsExclusive : Prop :=
  1 ≤ Config.stepCycles ∧
  (∀ (s : State) (t start : Nat), s.now = some t → s.stepStart = some start →
    (t < start + Config.stepCycles →
      (∀ i : Instr, i = .trig ∨ isBusWrite i = true → exec i s = .fault .overlap) ∧
      (∀ slot : Slot, exec (.rd slot) s = .next { s with rdata := Config.freeWord s.draws, draws := s.draws + 1 })) ∧
    (start + Config.stepCycles ≤ t → stepInProgress s = false)) ∧
  (∀ s t : State, exec .step s = .next t → t.stepStart = s.now)

/-- R226 item 3: an unstamped event arrives after the previous STEP has completed, and so never overlaps one. This is R226's
named premise, as the model takes it (log 8), not a fact about every environment. -/
def Obligations.UnstampedEventNeverOverlaps : Prop :=
  ∀ (s : State) (a : Arrival) (rest : List Arrival), s.arrivals = a :: rest → a.stamp = none → step s ≠ .fault .overlap

/-! ## The reference model and the assembler (not hardware) -/

/-- R133: the reference model's ticks compute the recurrence over the lagged errors and outputs, and fLast is the stored
output floored at fLower and truncated toward zero. -/
def Obligations.ReferenceFollowsItsRecurrence : Prop :=
  ∀ (inputs : InitializerInputs) (vs : List Int), vs ≠ [] →
    let x := refInit inputs
    let es : List Rat := (vs.map (fun v => (inputs.reference : Rat) - v)).reverse
    let us := closedRefOutputs x es
    let y := exactRefRun vs x
    y.fE0 = es.getD 0 0 ∧ y.fE1 = es.getD 1 0 ∧ y.fE2 = es.getD 2 0 ∧ y.fE3 = 0 ∧
    y.fU0 = us.getD 0 0 ∧ y.fU1 = us.getD 1 0 ∧ y.fU2 = us.getD 2 0 ∧
    y.fLast = some (truncRat (if us.getD 0 0 < x.fLower then x.fLower else us.getD 0 0))

/-- R132, R136: one reference tick under a float format rounds each sum and each product, in R132's order. R136 names only
each + and ×; that the difference fRef − fb is not rounded, and that nothing but the sums and products is (the histories, the
clamps and the truncation are exact), is the model's reading of it (log 17, DEDUCED). -/
def Obligations.ReferenceRoundsSumsAndProductsOnly : Prop :=
  ∀ (rnd : Rat → Rat) (fb : Int) (x : RefState),
    let e : Rat := x.fRef - fb
    let p1 := rnd (0 + rnd (x.fB3 * x.fE2))
    let p2 := rnd (p1 + rnd (x.fB2 * x.fE1))
    let p3 := rnd (p2 + rnd (x.fB1 * x.fE0))
    let p4 := rnd (p3 + rnd (x.fB0 * e))
    let p5 := rnd (p4 + rnd (x.fA3 * x.fU2))
    let p6 := rnd (p5 + rnd (x.fA2 * x.fU1))
    let p7 := rnd (p6 + rnd (x.fA1 * x.fU0))
    let u := clampRat p7 (-x.fUpper) x.fUpper
    refStep rnd fb x = { x with
      fE0 := e, fE1 := x.fE0, fE2 := x.fE1, fU0 := u, fU1 := x.fU0, fU2 := x.fU1,
      fLast := some (truncRat (if u < x.fLower then x.fLower else u)) }

/-- The document's cross-backend claim (R137): with exactly representable coefficients in the design ranges and no
intermediate overflow, the reference's output and the hardware's differ by at most one unit. A claim of the document, not
a rule of the hardware; expected to fail. -/
def Obligations.CrossBackendOutputsDifferByAtMostOne : Prop :=
  ∀ (inputs : InitializerInputs) (c : ConfigWords) (vs : List Sample) (t : State) (last : Int),
    ExactlyQuantized inputs c →
    execAll (configEvents c ++ [.init] ++ ticks vs) State.reset = .next t →
    NoWrap t.regs (errorsOf c.ref vs) →
    (exactRefRun (vs.map (fun v => (v.toNat : Int))) (refInit inputs)).fLast = some last →
    last - s32 (t.regs.get .lastOut) ≤ 1 ∧ s32 (t.regs.get .lastOut) - last ≤ 1

/-- R90, R91: fields joined by separators are a line's fields, whatever comment follows (log 19), and each mnemonic
assembles to its event word, by register name or raw offset; a sample outside its range is rejected. -/
def Obligations.LinesAssembleToTheirEvents : Prop :=
  (∀ (fields : List (List Char)) (gap comment : List Char),
    (∀ f ∈ fields, f ≠ [] ∧ ∀ c ∈ f, c ∉ separators ∧ c ≠ ';') → gap ≠ [] → (∀ c ∈ gap, c ∈ separators) →
    assembleLine (gap.intercalate fields) = assembleTokens fields ∧
    assembleLine (gap.intercalate fields ++ ';' :: comment) = assembleTokens fields) ∧
  (∀ (name : List Char) (off : Offset),
    ((name, off) ∈ registerNames ∨
      ∃ (hi lo : Char) (h l : Nat), name = ['@', '0', 'x', hi, lo] ∧ digitValue hi = some h ∧ digitValue lo = some l ∧
        off = BitVec.ofNat 8 (16 * h + l)) →
    assembleTokens [['R', 'D'], name] = some [readWord off] ∧
    (∀ (v : List Char) (x : Int), parseValue v = some x →
      assembleTokens [['W', 'R'], name, v] = some [writeWord off (u32 x)])) ∧
  (∀ slot : Slot, slot.wellFormed = true → (∀ off : Offset, slot ≠ .reserved off) →
    ∃ name : List Char, (name, slot.offset) ∈ registerNames) ∧
  (∀ (v : List Char) (x : Int), parseValue v = some x →
    (0 ≤ x ∧ x < 2 ^ 12 →
      ∃ sample : Sample, (sample.toNat : Int) = x ∧
        assembleTokens [['S', 'A', 'M', 'P', 'L', 'E'], v] = some [encode (.sample sample)]) ∧
    (¬ (0 ≤ x ∧ x < 2 ^ 12) → assembleTokens [['S', 'A', 'M', 'P', 'L', 'E'], v] = none)) ∧
  assembleTokens [['I', 'N', 'I', 'T']] = some [writeWord 0x00#8 1#32] ∧
  assembleTokens [['S', 'T', 'E', 'P']] = some [writeWord 0x00#8 2#32] ∧
  assembleTokens [['T', 'R', 'I', 'G']] = some [0x0000000040000000#64] ∧
  assembleTokens [['R', 'E', 'S', 'E', 'T']] = some [0x0000000080000000#64]

/-- R92: TICK is SAMPLE then TRIG, CLRERR a write of 2 to STATUS, CONFIG the ten writes in order, and INITIALIZE the CONFIG
of the quantized words, then INIT; where the quantizer refuses, there is no expansion. -/
def Obligations.PseudoInstructionsExpand : Prop :=
  (∀ (v : List Char) (sample : Sample), parseValue v = some (sample.toNat : Int) →
    assembleTokens [['T', 'I', 'C', 'K'], v] = some [encode (.sample sample), encode .trig]) ∧
  assembleTokens [['C', 'L', 'R', 'E', 'R', 'R']] = some [writeWord 0x04#8 2#32] ∧
  (∀ (b0 b1 b2 b3 a1 a2 a3 ref upper lower : List Char) (c : ConfigWords),
    parseWord b0 = some c.b0 → parseWord b1 = some c.b1 → parseWord b2 = some c.b2 → parseWord b3 = some c.b3 →
    parseWord a1 = some c.a1 → parseWord a2 = some c.a2 → parseWord a3 = some c.a3 → parseWord ref = some c.ref →
    parseWord upper = some c.upper → parseWord lower = some c.lower →
    assembleTokens [['C', 'O', 'N', 'F', 'I', 'G'], b0, b1, b2, b3, a1, a2, a3, ref, upper, lower] =
      some [writeWord 0x10#8 c.b0, writeWord 0x14#8 c.b1, writeWord 0x18#8 c.b2, writeWord 0x1C#8 c.b3,
        writeWord 0x20#8 c.a1, writeWord 0x24#8 c.a2, writeWord 0x28#8 c.a3, writeWord 0x2C#8 c.ref,
        writeWord 0x30#8 c.upper, writeWord 0x38#8 c.lower]) ∧
  (∀ (x : InitializerInputs) (c : ConfigWords), quantize x = .ok c →
    assembleInitialize x = some ((configEvents c).map encode ++ [writeWord 0x00#8 1#32])) ∧
  (∀ (x : InitializerInputs) (r : Refusal), quantize x = .error r → assembleInitialize x = none)
end

