-- ==== Sys2Proof/Laws/Arith.lean ====
section
/-! SUPPORT. Arithmetic: wrap32, asr, the clamps and the word conversions. -/

namespace Sys2Proof.Machine

theorem wrap32_eq (v : Int) : wrap32 v = Int.bmod v 4294967296 := rfl

theorem wrap32_inWord (v : Int) : InWord (wrap32 v) := by
  unfold InWord
  rw [wrap32_eq]
  constructor
  · have := Int.le_bmod (x := v) (m := 4294967296) (by decide); omega
  · have := Int.bmod_lt (x := v) (m := 4294967296) (by decide); omega

theorem wrap32_of_inWord {v : Int} (h : InWord v) : wrap32 v = v := by
  unfold InWord at h
  rw [wrap32_eq, Int.bmod_eq_of_le] <;> omega

@[simp] theorem wrap32_wrap32 (v : Int) : wrap32 (wrap32 v) = wrap32 v := wrap32_of_inWord (wrap32_inWord v)

theorem wrap32_add_wrap32_left (a b : Int) : wrap32 (wrap32 a + b) = wrap32 (a + b) := by
  simp [wrap32, Int.bmod_add_bmod]

theorem wrap32_add_wrap32_right (a b : Int) : wrap32 (a + wrap32 b) = wrap32 (a + b) := by
  simp [wrap32, Int.add_bmod_bmod]

theorem wrap32_dvd_sub (v : Int) : (2 ^ 32 : Int) ∣ v - wrap32 v := by
  have := Int.dvd_self_sub_bmod (x := v) (m := 4294967296)
  simpa [wrap32_eq] using this

/-- The signed value of a word is a 32-bit value. -/
theorem s32_inWord (w : Word) : InWord (s32 w) := by
  unfold InWord s32
  have h1 := BitVec.le_toInt w
  have h2 := BitVec.toInt_lt (x := w)
  simp at h1 h2
  omega

/-- Writing an integer to a register keeps its residue. -/
@[simp] theorem s32_u32 (v : Int) : s32 (u32 v) = wrap32 v := by
  simp [s32, u32, wrap32, BitVec.toInt_ofInt]

theorem s32_u32_of_inWord {v : Int} (h : InWord v) : s32 (u32 v) = v := by rw [s32_u32, wrap32_of_inWord h]

@[simp] theorem u32_s32 (w : Word) : u32 (s32 w) = w := by simp [s32, u32]

theorem s32_injective {a b : Word} (h : s32 a = s32 b) : a = b := BitVec.eq_of_toInt_eq h

@[simp] theorem s32_zero : s32 0#32 = 0 := by decide

/-- A zero-extended sample is its unsigned value (R156). -/
@[simp] theorem s32_zext_sample (fb : Sample) : s32 (zext fb) = fb.toNat := by
  have h : fb.toNat < 4096 := fb.isLt
  unfold s32 zext
  rw [BitVec.toInt_eq_toNat_of_lt]
  · simp
    omega
  · simp
    omega

theorem newError_eq (ref : Word) (fb : Sample) : newError ref fb = wrap32 (s32 ref - fb.toNat) := by
  simp [newError]

theorem asr_mono {a b : Int} (s : Nat) (h : a ≤ b) : asr a s ≤ asr b s :=
  Int.ediv_le_ediv (by positivity) h

theorem asr_inWord {v : Int} (h : InWord v) (s : Nat) : InWord (asr v s) := by
  unfold InWord at *
  unfold asr
  have hp : (0 : Int) < 2 ^ s := by positivity
  have h1 : (1 : Int) ≤ 2 ^ s := hp
  constructor
  · rw [Int.le_ediv_iff_mul_le hp]
    nlinarith
  · rw [Int.ediv_lt_iff_lt_mul hp]
    nlinarith

theorem clampHiFirst_inWord {v lo hi : Int} (hv : InWord v) (hl : InWord lo) (hh : InWord hi) :
    InWord (clampHiFirst v lo hi) := by
  unfold clampHiFirst
  split
  · exact hh
  · split
    · exact hl
    · exact hv

theorem clampHiFirst_bounds {v lo hi : Int} (h : lo ≤ hi) :
    lo ≤ clampHiFirst v lo hi ∧ clampHiFirst v lo hi ≤ hi := by
  unfold clampHiFirst
  split
  · exact ⟨h, le_refl _⟩
  · split <;> omega

theorem floorClamp_inWord {v lo : Int} (hv : InWord v) (hl : InWord lo) : InWord (floorClamp v lo) := by
  unfold floorClamp
  split
  · exact hl
  · exact hv

theorem floorClamp_eq_max (v lo : Int) : floorClamp v lo = max v lo := by
  unfold floorClamp
  split <;> omega

end Sys2Proof.Machine
end

