-- ==== Sys2Proof/Laws/Decode.lean ====
section
/-! SUPPORT. The fields of an event word, the register map, and the decoder on words built from fields. -/

namespace Sys2Proof

/-- An event word as a number (R80). -/
theorem eventWord_toNat (d : Word) (k : BitVec 3) (o : Offset) :
   (eventWord d k o).toNat = d.toNat * 2^32 + k.toNat * 2^29 + o.toNat := by
  unfold eventWord
  have h1 := BitVec.toNat_append d k
  have h2 := BitVec.toNat_append (d ++ k) 0#21
  have h3 := BitVec.toNat_append (d ++ k ++ 0#21) o
  have := d.isLt; have := k.isLt; have := o.isLt
  rw [h3, h2, h1]
  rw [← Nat.shiftLeft_add_eq_or_of_lt (by omega), ← Nat.shiftLeft_add_eq_or_of_lt (by simp), ← Nat.shiftLeft_add_eq_or_of_lt (by omega)]
  simp [Nat.shiftLeft_eq]
  omega

theorem dataField_toNat (w : EventWord) : (dataField w).toNat = w.toNat / 2^32 := by
  have := w.isLt
  simp [dataField, BitVec.extractLsb'_toNat, Nat.shiftRight_eq_div_pow]; omega

theorem kindField_toNat (w : EventWord) : (kindField w).toNat = w.toNat / 2^29 % 2^3 := by
  simp [kindField, BitVec.extractLsb'_toNat, Nat.shiftRight_eq_div_pow]

theorem rsvField_toNat (w : EventWord) : (rsvField w).toNat = w.toNat / 2^8 % 2^21 := by
  simp [rsvField, BitVec.extractLsb'_toNat, Nat.shiftRight_eq_div_pow]

theorem offField_toNat (w : EventWord) : (offField w).toNat = w.toNat % 2^8 := by
  simp [offField, BitVec.extractLsb'_toNat]

@[simp] theorem dataField_eventWord (d : Word) (k : BitVec 3) (o : Offset) : dataField (eventWord d k o) = d := by
  apply BitVec.eq_of_toNat_eq
  have := k.isLt; have := o.isLt
  rw [dataField_toNat, eventWord_toNat]; omega

@[simp] theorem kindField_eventWord (d : Word) (k : BitVec 3) (o : Offset) : kindField (eventWord d k o) = k := by
  apply BitVec.eq_of_toNat_eq
  have := k.isLt; have := o.isLt
  rw [kindField_toNat, eventWord_toNat]; omega

@[simp] theorem rsvField_eventWord (d : Word) (k : BitVec 3) (o : Offset) : rsvField (eventWord d k o) = 0#21 := by
  apply BitVec.eq_of_toNat_eq
  have := k.isLt; have := o.isLt
  rw [rsvField_toNat, eventWord_toNat]; simp; omega

@[simp] theorem offField_eventWord (d : Word) (k : BitVec 3) (o : Offset) : offField (eventWord d k o) = o := by
  apply BitVec.eq_of_toNat_eq
  have := k.isLt; have := o.isLt
  rw [offField_toNat, eventWord_toNat]; omega

/-- A word with RSV = 0 is built from its fields. -/
theorem eventWord_fields {w : EventWord} (h : rsvField w = 0#21) :
   eventWord (dataField w) (kindField w) (offField w) = w := by
  apply BitVec.eq_of_toNat_eq
  have h0 : w.toNat / 2^8 % 2^21 = 0 := by rw [← rsvField_toNat, h]; rfl
  rw [eventWord_toNat, dataField_toNat, kindField_toNat, offField_toNat]; omega

theorem decode_eventWord (d : Word) (k : BitVec 3) (o : Offset) : decode (eventWord d k o) = decodeFields d k o := by
  simp [decode]

/-- Exactly the misaligned offsets have no slot (R63). -/
theorem slotAt_eq_none_iff : ∀ off : Offset, slotAt off = none ↔ off.toNat % 4 ≠ 0 := by decide +kernel

/-- The slot found at an offset stands at it (R44). -/
theorem slotAt_some {off : Offset} {slot : Slot} (h : slotAt off = some slot) :
   slot.wellFormed = true ∧ slot.offset = off := by
  have all : ∀ off : Offset,
      (match slotAt off with | none => true | some s => s.wellFormed && s.offset == off) = true := by decide +kernel
  have := all off
  rw [h] at this
  simpa using this

/-- Every well-formed slot is found at its offset (R44). -/
theorem slotAt_offset {slot : Slot} (h : slot.wellFormed = true) : slotAt slot.offset = some slot := by
  have res : ∀ off : Offset, isReservedOffset off = true → slotAt off = some (.reserved off) := by decide +kernel
  cases slot with
  | data r => cases r <;> rfl
  | reserved off => exact res off h
  | _ => rfl

end Sys2Proof
end

