-- ==== Sys2Proof/Laws/RegFile.lean ====
section
/-! SUPPORT. The register file: a read after a write, extensionality, and commuting writes. -/

namespace Sys2Proof.Machine

variable {α : Type}

/-- A read after a write gives the written value at the written register, and the old value elsewhere. -/
theorem get_set (f : RegFile α) (r q : DataReg) (v : α) : (f.set r v).get q = if q = r then v else f.get q := by
  cases r <;> cases q <;> rfl

@[simp] theorem get_set_self (f : RegFile α) (r : DataReg) (v : α) : (f.set r v).get r = v := by simp [get_set]

theorem get_set_other (f : RegFile α) {r q : DataReg} (v : α) (h : q ≠ r) : (f.set r v).get q = f.get q := by
  simp [get_set, h]

@[simp] theorem get_fill (v : α) (r : DataReg) : (RegFile.fill v).get r = v := by cases r <;> rfl

/-- Two files that agree on every register are equal. -/
theorem regFile_ext {f g : RegFile α} (h : ∀ r, f.get r = g.get r) : f = g := by
  cases f; cases g
  simp only [RegFile.mk.injEq]
  exact ⟨h .b0, h .b1, h .b2, h .b3, h .a1, h .a2, h .a3, h .ref, h .upper, h .upperNeg, h .lower, h .e0, h .e1, h .e2,
    h .e3, h .u0, h .u1, h .u2, h .lastOut⟩

/-- Writes to different registers commute. -/
theorem set_comm (f : RegFile α) {r q : DataReg} (v w : α) (h : r ≠ q) : (f.set r v).set q w = (f.set q w).set r v := by
  apply regFile_ext
  intro p
  simp only [get_set]
  split <;> split <;> simp_all

/-- Writing one value to several registers: those hold it, the others are unchanged. -/
theorem get_setAll (f : RegFile α) (rs : List DataReg) (v : α) (q : DataReg) :
    (f.setAll rs v).get q = if q ∈ rs then v else f.get q := by
  induction rs generalizing f with
  | nil => simp [RegFile.setAll]
  | cons r rs ih =>
    have h : f.setAll (r :: rs) v = (f.set r v).setAll rs v := rfl
    rw [h, ih, get_set]
    by_cases hq : q ∈ rs <;> simp [hq]

end Sys2Proof.Machine
end

