-- ==== Sys2Proof/Laws/Filter.lean ====
section
/-! SUPPORT. What one tick does to the register file, stage by stage. -/

namespace Sys2Proof.Machine

/-- The registers after stage 1: the output history has shifted by one slot. -/
theorem feedBackStage_file (x : RegFile Word) :
    (feedBackStage x).2 = (x.set .u2 (x.get .u1)).set .u1 (x.get .u0) := rfl

/-- The registers after stage 2: the error history has shifted by one slot and E0 is the new error. -/
theorem feedForwardStage_file (fb : Sample) (acc : Int) (x : RegFile Word) :
    (feedForwardStage fb acc x).2 =
      ((x.set .e2 (x.get .e1)).set .e1 (x.get .e0)).set .e0 (u32 (newError (x.get .ref) fb)) := rfl

/-- The stage-1 sum wraps once (R152). -/
theorem feedBackStage_sum (x : RegFile Word) :
    (feedBackStage x).1 = wrap32 (s32 (x.get .a3) * s32 (x.get .u2) + s32 (x.get .a2) * s32 (x.get .u1) +
      s32 (x.get .a1) * s32 (x.get .u0)) := by
  show wrap32 (wrap32 (wrap32 (s32 (x.get .a3) * s32 (x.get .u2)) + s32 (x.get .a2) * s32 (x.get .u1)) +
    s32 (x.get .a1) * s32 (x.get .u0)) = _
  rw [wrap32_add_wrap32_left (s32 (x.get .a3) * s32 (x.get .u2)), wrap32_add_wrap32_left]

/-- The stage-2 sum wraps once (R152). -/
theorem feedForwardStage_sum (fb : Sample) (acc : Int) (x : RegFile Word) :
    (feedForwardStage fb acc x).1 = wrap32 (acc + s32 (x.get .b3) * s32 (x.get .e2) +
      s32 (x.get .b2) * s32 (x.get .e1) + s32 (x.get .b1) * s32 (x.get .e0) +
      s32 (x.get .b0) * wrap32 (s32 (x.get .ref) - fb.toNat)) := by
  unfold feedForwardStage
  simp only [get_set, reduceCtorEq, if_false, if_true, s32_u32, newError_eq, wrap32_wrap32]
  rw [wrap32_add_wrap32_left (acc + _), wrap32_add_wrap32_left (acc + _ + _), wrap32_add_wrap32_left]

/-- The value of a tick before the saturation unit. -/
def tickAcc (fb : Sample) (x : RegFile Word) : Int :=
  asr (feedForwardStage fb (asr (feedBackStage x).1 Config.shiftA) (feedBackStage x).2).1 Config.shiftB

/-- The clamped value of a tick. -/
def tickClamped (fb : Sample) (x : RegFile Word) : Int :=
  clampHiFirst (tickAcc fb x) (s32 (x.get .upperNeg)) (s32 (x.get .upper))

/-- The saturation unit writes U0 and LAST_OUT (R158, R160). -/
theorem saturate_file (acc : Int) (x : RegFile Word) :
    saturate acc x =
      (x.set .u0 (u32 (clampHiFirst acc (s32 (x.get .upperNeg)) (s32 (x.get .upper))))).set .lastOut
        (u32 (floorClamp (asr (clampHiFirst acc (s32 (x.get .upperNeg)) (s32 (x.get .upper))) Config.shiftOut)
          (s32 (x.get .lower)))) := by
  unfold saturate
  simp only [get_set, reduceCtorEq, if_false]

theorem filterStep_eq (fb : Sample) (x : RegFile Word) :
    filterStep fb x = saturate (tickAcc fb x)
      (feedForwardStage fb (asr (feedBackStage x).1 Config.shiftA) (feedBackStage x).2).2 := rfl

/-- The register file after a tick, as a chain of writes. -/
theorem filterStep_file (fb : Sample) (x : RegFile Word) :
    filterStep fb x =
      ((((((x.set .u2 (x.get .u1)).set .u1 (x.get .u0)).set .e2 (x.get .e1)).set .e1 (x.get .e0)).set .e0
        (u32 (newError (x.get .ref) fb))).set .u0 (u32 (tickClamped fb x))).set .lastOut
          (u32 (floorClamp (asr (tickClamped fb x) Config.shiftOut) (s32 (x.get .lower)))) := by
  rw [filterStep_eq, saturate_file, feedForwardStage_file, feedBackStage_file]
  simp only [get_set, reduceCtorEq, if_false, tickClamped]

/-- Every register after a tick. -/
theorem filterStep_get (fb : Sample) (x : RegFile Word) (r : DataReg) :
    (filterStep fb x).get r = match r with
      | .e0 => u32 (newError (x.get .ref) fb)
      | .e1 => x.get .e0
      | .e2 => x.get .e1
      | .u0 => u32 (tickClamped fb x)
      | .u1 => x.get .u0
      | .u2 => x.get .u1
      | .lastOut => u32 (floorClamp (asr (tickClamped fb x) Config.shiftOut) (s32 (x.get .lower)))
      | r => x.get r := by
  rw [filterStep_file]
  cases r <;> simp only [get_set, reduceCtorEq, if_false, if_true]

theorem filterStep_e0 (fb : Sample) (x : RegFile Word) :
    (filterStep fb x).get .e0 = u32 (newError (x.get .ref) fb) := filterStep_get fb x .e0
theorem filterStep_e1 (fb : Sample) (x : RegFile Word) : (filterStep fb x).get .e1 = x.get .e0 := filterStep_get fb x .e1
theorem filterStep_e2 (fb : Sample) (x : RegFile Word) : (filterStep fb x).get .e2 = x.get .e1 := filterStep_get fb x .e2
theorem filterStep_u0 (fb : Sample) (x : RegFile Word) :
    (filterStep fb x).get .u0 = u32 (tickClamped fb x) := filterStep_get fb x .u0
theorem filterStep_u1 (fb : Sample) (x : RegFile Word) : (filterStep fb x).get .u1 = x.get .u0 := filterStep_get fb x .u1
theorem filterStep_u2 (fb : Sample) (x : RegFile Word) : (filterStep fb x).get .u2 = x.get .u1 := filterStep_get fb x .u2
theorem filterStep_lastOut (fb : Sample) (x : RegFile Word) :
    (filterStep fb x).get .lastOut =
      u32 (floorClamp (asr (tickClamped fb x) Config.shiftOut) (s32 (x.get .lower))) := filterStep_get fb x .lastOut

/-- A tick changes no register but those STEP writes (R150). -/
theorem filterStep_other (fb : Sample) (x : RegFile Word) {r : DataReg} (h : r ∉ stepWrites) :
    (filterStep fb x).get r = x.get r := by
  simp only [stepWrites, List.mem_cons, List.not_mem_nil, or_false, not_or] at h
  rw [filterStep_file]
  simp only [get_set, h, if_false]

/-- The value of a tick before the saturation unit, in closed form (R164). -/
theorem tickAcc_eq (fb : Sample) (x : RegFile Word) :
    tickAcc fb x =
      asr (wrap32 (asr (wrap32 (s32 (x.get .a3) * s32 (x.get .u2) + s32 (x.get .a2) * s32 (x.get .u1) +
        s32 (x.get .a1) * s32 (x.get .u0))) 3 + s32 (x.get .b3) * s32 (x.get .e2) + s32 (x.get .b2) * s32 (x.get .e1) +
        s32 (x.get .b1) * s32 (x.get .e0) + s32 (x.get .b0) * wrap32 (s32 (x.get .ref) - fb.toNat))) 11 := by
  unfold tickAcc
  rw [feedForwardStage_sum, feedBackStage_sum, feedBackStage_file]
  rfl

theorem tickAcc_inWord (fb : Sample) (x : RegFile Word) : InWord (tickAcc fb x) := by
  rw [tickAcc_eq]
  exact asr_inWord (wrap32_inWord _) _

theorem tickClamped_inWord (fb : Sample) (x : RegFile Word) : InWord (tickClamped fb x) :=
  clampHiFirst_inWord (tickAcc_inWord fb x) (s32_inWord _) (s32_inWord _)

theorem s32_filterStep_u0 (fb : Sample) (x : RegFile Word) : s32 ((filterStep fb x).get .u0) = tickClamped fb x := by
  rw [filterStep_u0, s32_u32_of_inWord (tickClamped_inWord fb x)]

theorem s32_filterStep_e0 (fb : Sample) (x : RegFile Word) :
    s32 ((filterStep fb x).get .e0) = wrap32 (s32 (x.get .ref) - fb.toNat) := by
  rw [filterStep_e0, s32_u32, newError_eq, wrap32_wrap32]

theorem s32_filterStep_lastOut (fb : Sample) (x : RegFile Word) :
    s32 ((filterStep fb x).get .lastOut) = floorClamp (asr (tickClamped fb x) 8) (s32 (x.get .lower)) := by
  rw [filterStep_lastOut]
  exact s32_u32_of_inWord (floorClamp_inWord (asr_inWord (tickClamped_inWord fb x) _) (s32_inWord _))

end Sys2Proof.Machine
end

