-- ==== Sys2Proof/Laws/Host.lean ====
section
/-! SUPPORT. The host-side functions: formats, the quantizer, and the fields of a transcript line. -/

namespace Sys2Proof.Machine

/-- A raw integer fits a format exactly in R102's range. -/
theorem fits_iff (f : FixedPointFormat) (r : Int) :
    f.fits r = true ↔ -(2 ^ (f.totalBits - 1) : Int) ≤ r ∧ r ≤ 2 ^ (f.totalBits - 1) - 1 := by
  simp [FixedPointFormat.fits]

/-- A value of 32 bits becomes the word that holds it (R113). -/
theorem registerWord_of_inWord (r : DataReg) {v : Int} (h : InWord v) : registerWord r v = .ok (u32 v) := if_pos h

/-- What the quantizer of one register answers: a word that holds the value, which fits 32 bits. -/
theorem registerWord_ok {r : DataReg} {v : Int} {w : Word} (h : registerWord r v = .ok w) : InWord v ∧ s32 w = v := by
  unfold registerWord at h
  split at h
  · rename_i hv
    cases h
    exact ⟨hv, s32_u32_of_inWord hv⟩
  · cases h

/-- A field that a separator ends. -/
theorem fieldsOf_field {f : List Char} (h : ∀ c ∈ f, c ∉ separators) {sep : Char} (hs : sep ∈ separators)
    (rest : List Char) : fieldsOf (f ++ sep :: rest) = f :: fieldsOf rest := by
  have hs' : separators.contains sep = true := by simpa using hs
  induction f with
  | nil => simp only [List.nil_append, fieldsOf, hs', if_true]
  | cons c f ih =>
    have hc : separators.contains c = false := by simpa using h c (by simp)
    simp only [List.cons_append, fieldsOf, hc, ih (fun d hd => h d (by simp [hd]))]
    rfl

/-- A field that the line's end ends. -/
theorem fieldsOf_lastField {f : List Char} (hf : f ≠ []) (h : ∀ c ∈ f, c ∉ separators) : fieldsOf f = [f] := by
  induction f with
  | nil => exact absurd rfl hf
  | cons c f ih =>
    have hc : separators.contains c = false := by simpa using h c (by simp)
    cases f with
    | nil => simp only [fieldsOf, hc]; rfl
    | cons d f =>
      rw [fieldsOf, hc, ih (by simp) (fun e he => h e (by simp [he]))]
      rfl

/-- Separators before a field leave empty fields only. -/
theorem filter_fieldsOf_gap {gap : List Char} (h : ∀ c ∈ gap, c ∈ separators) (rest : List Char) :
    (fieldsOf (gap ++ rest)).filter (fun f => !f.isEmpty) = (fieldsOf rest).filter (fun f => !f.isEmpty) := by
  induction gap with
  | nil => rfl
  | cons c gap ih =>
    have hc : separators.contains c = true := by simpa using h c (by simp)
    simp only [List.cons_append, fieldsOf, hc, if_true, List.filter_cons, List.isEmpty_nil, Bool.not_true]
    exact ih (fun d hd => h d (by simp [hd]))

/-- A comment and its semicolon are cut off (R90). -/
theorem withoutComment_append {line : List Char} (h : ∀ c ∈ line, c ≠ ';') (comment : List Char) :
    withoutComment (line ++ ';' :: comment) = line := by
  induction line with
  | nil => simp [withoutComment]
  | cons c line ih =>
    have hc := h c (by simp)
    have := ih (fun d hd => h d (by simp [hd]))
    simp only [withoutComment] at this
    simp [withoutComment, hc, this]

end Sys2Proof.Machine
end

