-- ==== Sys2Proof/Laws/State.lean ====
section
/-! SUPPORT. One lemma per field per named update of State: what each update leaves and what it writes. -/

namespace Sys2Proof.Machine

variable (s : State)

/-! ### writeReg -/

@[simp] theorem writeReg_mode (r : DataReg) (v : Word) : (writeReg r v s).mode = s.mode := rfl
@[simp] theorem writeReg_err (r : DataReg) (v : Word) : (writeReg r v s).err = s.err := rfl
@[simp] theorem writeReg_errc (r : DataReg) (v : Word) : (writeReg r v s).errc = s.errc := rfl
@[simp] theorem writeReg_regs (r : DataReg) (v : Word) : (writeReg r v s).regs = s.regs.set r v := rfl
@[simp] theorem writeReg_written (r : DataReg) (v : Word) : (writeReg r v s).written = s.written.set r true := rfl
@[simp] theorem writeReg_actOut (r : DataReg) (v : Word) : (writeReg r v s).actOut = s.actOut := rfl
@[simp] theorem writeReg_dutyQ8 (r : DataReg) (v : Word) : (writeReg r v s).dutyQ8 = s.dutyQ8 := rfl
@[simp] theorem writeReg_actOutWritten (r : DataReg) (v : Word) :
    (writeReg r v s).actOutWritten =
      s.actOutWritten := rfl
@[simp] theorem writeReg_dutyQ8Written (r : DataReg) (v : Word) :
    (writeReg r v s).dutyQ8Written =
      s.dutyQ8Written := rfl
@[simp] theorem writeReg_doneCount (r : DataReg) (v : Word) : (writeReg r v s).doneCount = s.doneCount := rfl
@[simp] theorem writeReg_fb (r : DataReg) (v : Word) : (writeReg r v s).fb = s.fb := rfl
@[simp] theorem writeReg_fbDriven (r : DataReg) (v : Word) : (writeReg r v s).fbDriven = s.fbDriven := rfl
@[simp] theorem writeReg_rdata (r : DataReg) (v : Word) : (writeReg r v s).rdata = s.rdata := rfl
@[simp] theorem writeReg_draws (r : DataReg) (v : Word) : (writeReg r v s).draws = s.draws := rfl
@[simp] theorem writeReg_unwrittenRead (r : DataReg) (v : Word) :
    (writeReg r v s).unwrittenRead = s.unwrittenRead := rfl
@[simp] theorem writeReg_now (r : DataReg) (v : Word) : (writeReg r v s).now = s.now := rfl
@[simp] theorem writeReg_stepStart (r : DataReg) (v : Word) : (writeReg r v s).stepStart = s.stepStart := rfl
@[simp] theorem writeReg_eventIndex (r : DataReg) (v : Word) : (writeReg r v s).eventIndex = s.eventIndex := rfl
@[simp] theorem writeReg_arrivals (r : DataReg) (v : Word) : (writeReg r v s).arrivals = s.arrivals := rfl

/-! ### respond -/

@[simp] theorem respond_mode (w : Word) : (respond w s).mode = s.mode := rfl
@[simp] theorem respond_err (w : Word) : (respond w s).err = s.err := rfl
@[simp] theorem respond_errc (w : Word) : (respond w s).errc = s.errc := rfl
@[simp] theorem respond_regs (w : Word) : (respond w s).regs = s.regs := rfl
@[simp] theorem respond_written (w : Word) : (respond w s).written = s.written := rfl
@[simp] theorem respond_actOut (w : Word) : (respond w s).actOut = s.actOut := rfl
@[simp] theorem respond_dutyQ8 (w : Word) : (respond w s).dutyQ8 = s.dutyQ8 := rfl
@[simp] theorem respond_actOutWritten (w : Word) : (respond w s).actOutWritten = s.actOutWritten := rfl
@[simp] theorem respond_dutyQ8Written (w : Word) : (respond w s).dutyQ8Written = s.dutyQ8Written := rfl
@[simp] theorem respond_doneCount (w : Word) : (respond w s).doneCount = s.doneCount := rfl
@[simp] theorem respond_fb (w : Word) : (respond w s).fb = s.fb := rfl
@[simp] theorem respond_fbDriven (w : Word) : (respond w s).fbDriven = s.fbDriven := rfl
@[simp] theorem respond_rdata (w : Word) : (respond w s).rdata = w := rfl
@[simp] theorem respond_draws (w : Word) : (respond w s).draws = s.draws := rfl
@[simp] theorem respond_unwrittenRead (w : Word) : (respond w s).unwrittenRead = s.unwrittenRead := rfl
@[simp] theorem respond_now (w : Word) : (respond w s).now = s.now := rfl
@[simp] theorem respond_stepStart (w : Word) : (respond w s).stepStart = s.stepStart := rfl
@[simp] theorem respond_eventIndex (w : Word) : (respond w s).eventIndex = s.eventIndex := rfl
@[simp] theorem respond_arrivals (w : Word) : (respond w s).arrivals = s.arrivals := rfl

/-! ### noteReads -/

@[simp] theorem noteReads_mode (rs : List DataReg) : (noteReads rs s).mode = s.mode := rfl
@[simp] theorem noteReads_err (rs : List DataReg) : (noteReads rs s).err = s.err := rfl
@[simp] theorem noteReads_errc (rs : List DataReg) : (noteReads rs s).errc = s.errc := rfl
@[simp] theorem noteReads_regs (rs : List DataReg) : (noteReads rs s).regs = s.regs := rfl
@[simp] theorem noteReads_written (rs : List DataReg) : (noteReads rs s).written = s.written := rfl
@[simp] theorem noteReads_actOut (rs : List DataReg) : (noteReads rs s).actOut = s.actOut := rfl
@[simp] theorem noteReads_dutyQ8 (rs : List DataReg) : (noteReads rs s).dutyQ8 = s.dutyQ8 := rfl
@[simp] theorem noteReads_actOutWritten (rs : List DataReg) : (noteReads rs s).actOutWritten = s.actOutWritten := rfl
@[simp] theorem noteReads_dutyQ8Written (rs : List DataReg) : (noteReads rs s).dutyQ8Written = s.dutyQ8Written := rfl
@[simp] theorem noteReads_doneCount (rs : List DataReg) : (noteReads rs s).doneCount = s.doneCount := rfl
@[simp] theorem noteReads_fb (rs : List DataReg) : (noteReads rs s).fb = s.fb := rfl
@[simp] theorem noteReads_fbDriven (rs : List DataReg) : (noteReads rs s).fbDriven = s.fbDriven := rfl
@[simp] theorem noteReads_rdata (rs : List DataReg) : (noteReads rs s).rdata = s.rdata := rfl
@[simp] theorem noteReads_draws (rs : List DataReg) : (noteReads rs s).draws = s.draws := rfl
@[simp] theorem noteReads_unwrittenRead (rs : List DataReg) :
    (noteReads rs s).unwrittenRead = (s.unwrittenRead <|> firstUnwritten s rs) := rfl
@[simp] theorem noteReads_now (rs : List DataReg) : (noteReads rs s).now = s.now := rfl
@[simp] theorem noteReads_stepStart (rs : List DataReg) : (noteReads rs s).stepStart = s.stepStart := rfl
@[simp] theorem noteReads_eventIndex (rs : List DataReg) : (noteReads rs s).eventIndex = s.eventIndex := rfl
@[simp] theorem noteReads_arrivals (rs : List DataReg) : (noteReads rs s).arrivals = s.arrivals := rfl

/-- Reads that find every register with a value record nothing. -/
@[simp] theorem noteReads_nil : noteReads [] s = s := by simp [noteReads, firstUnwritten]

/-! ### countDraw -/

@[simp] theorem countDraw_mode : (countDraw s).mode = s.mode := rfl
@[simp] theorem countDraw_err : (countDraw s).err = s.err := rfl
@[simp] theorem countDraw_errc : (countDraw s).errc = s.errc := rfl
@[simp] theorem countDraw_regs : (countDraw s).regs = s.regs := rfl
@[simp] theorem countDraw_written : (countDraw s).written = s.written := rfl
@[simp] theorem countDraw_actOut : (countDraw s).actOut = s.actOut := rfl
@[simp] theorem countDraw_dutyQ8 : (countDraw s).dutyQ8 = s.dutyQ8 := rfl
@[simp] theorem countDraw_actOutWritten : (countDraw s).actOutWritten = s.actOutWritten := rfl
@[simp] theorem countDraw_dutyQ8Written : (countDraw s).dutyQ8Written = s.dutyQ8Written := rfl
@[simp] theorem countDraw_doneCount : (countDraw s).doneCount = s.doneCount := rfl
@[simp] theorem countDraw_fb : (countDraw s).fb = s.fb := rfl
@[simp] theorem countDraw_fbDriven : (countDraw s).fbDriven = s.fbDriven := rfl
@[simp] theorem countDraw_rdata : (countDraw s).rdata = s.rdata := rfl
@[simp] theorem countDraw_draws : (countDraw s).draws = s.draws + 1 := rfl
@[simp] theorem countDraw_unwrittenRead : (countDraw s).unwrittenRead = s.unwrittenRead := rfl
@[simp] theorem countDraw_now : (countDraw s).now = s.now := rfl
@[simp] theorem countDraw_stepStart : (countDraw s).stepStart = s.stepStart := rfl
@[simp] theorem countDraw_eventIndex : (countDraw s).eventIndex = s.eventIndex := rfl
@[simp] theorem countDraw_arrivals : (countDraw s).arrivals = s.arrivals := rfl

/-! ### driveFb -/

@[simp] theorem driveFb_mode (v : Sample) : (driveFb v s).mode = s.mode := rfl
@[simp] theorem driveFb_err (v : Sample) : (driveFb v s).err = s.err := rfl
@[simp] theorem driveFb_errc (v : Sample) : (driveFb v s).errc = s.errc := rfl
@[simp] theorem driveFb_regs (v : Sample) : (driveFb v s).regs = s.regs := rfl
@[simp] theorem driveFb_written (v : Sample) : (driveFb v s).written = s.written := rfl
@[simp] theorem driveFb_actOut (v : Sample) : (driveFb v s).actOut = s.actOut := rfl
@[simp] theorem driveFb_dutyQ8 (v : Sample) : (driveFb v s).dutyQ8 = s.dutyQ8 := rfl
@[simp] theorem driveFb_actOutWritten (v : Sample) : (driveFb v s).actOutWritten = s.actOutWritten := rfl
@[simp] theorem driveFb_dutyQ8Written (v : Sample) : (driveFb v s).dutyQ8Written = s.dutyQ8Written := rfl
@[simp] theorem driveFb_doneCount (v : Sample) : (driveFb v s).doneCount = s.doneCount := rfl
@[simp] theorem driveFb_fb (v : Sample) : (driveFb v s).fb = v := rfl
@[simp] theorem driveFb_fbDriven (v : Sample) : (driveFb v s).fbDriven = true := rfl
@[simp] theorem driveFb_rdata (v : Sample) : (driveFb v s).rdata = s.rdata := rfl
@[simp] theorem driveFb_draws (v : Sample) : (driveFb v s).draws = s.draws := rfl
@[simp] theorem driveFb_unwrittenRead (v : Sample) : (driveFb v s).unwrittenRead = s.unwrittenRead := rfl
@[simp] theorem driveFb_now (v : Sample) : (driveFb v s).now = s.now := rfl
@[simp] theorem driveFb_stepStart (v : Sample) : (driveFb v s).stepStart = s.stepStart := rfl
@[simp] theorem driveFb_eventIndex (v : Sample) : (driveFb v s).eventIndex = s.eventIndex := rfl
@[simp] theorem driveFb_arrivals (v : Sample) : (driveFb v s).arrivals = s.arrivals := rfl

/-! ### clearErr -/

@[simp] theorem clearErr_mode : (clearErr s).mode = s.mode := rfl
@[simp] theorem clearErr_err : (clearErr s).err = false := rfl
@[simp] theorem clearErr_errc : (clearErr s).errc = 0#4 := rfl
@[simp] theorem clearErr_regs : (clearErr s).regs = s.regs := rfl
@[simp] theorem clearErr_written : (clearErr s).written = s.written := rfl
@[simp] theorem clearErr_actOut : (clearErr s).actOut = s.actOut := rfl
@[simp] theorem clearErr_dutyQ8 : (clearErr s).dutyQ8 = s.dutyQ8 := rfl
@[simp] theorem clearErr_actOutWritten : (clearErr s).actOutWritten = s.actOutWritten := rfl
@[simp] theorem clearErr_dutyQ8Written : (clearErr s).dutyQ8Written = s.dutyQ8Written := rfl
@[simp] theorem clearErr_doneCount : (clearErr s).doneCount = s.doneCount := rfl
@[simp] theorem clearErr_fb : (clearErr s).fb = s.fb := rfl
@[simp] theorem clearErr_fbDriven : (clearErr s).fbDriven = s.fbDriven := rfl
@[simp] theorem clearErr_rdata : (clearErr s).rdata = s.rdata := rfl
@[simp] theorem clearErr_draws : (clearErr s).draws = s.draws := rfl
@[simp] theorem clearErr_unwrittenRead : (clearErr s).unwrittenRead = s.unwrittenRead := rfl
@[simp] theorem clearErr_now : (clearErr s).now = s.now := rfl
@[simp] theorem clearErr_stepStart : (clearErr s).stepStart = s.stepStart := rfl
@[simp] theorem clearErr_eventIndex : (clearErr s).eventIndex = s.eventIndex := rfl
@[simp] theorem clearErr_arrivals : (clearErr s).arrivals = s.arrivals := rfl

/-! ### setErr -/

@[simp] theorem setErr_mode (c : BitVec 4) : (setErr c s).mode = s.mode := by unfold setErr; split <;> rfl
@[simp] theorem setErr_err (c : BitVec 4) : (setErr c s).err = true := by unfold setErr; split <;> simp_all
@[simp] theorem setErr_errc (c : BitVec 4) :
    (setErr c s).errc =
      if s.err = true then s.errc else c := by unfold setErr; split <;> simp_all
@[simp] theorem setErr_regs (c : BitVec 4) : (setErr c s).regs = s.regs := by unfold setErr; split <;> rfl
@[simp] theorem setErr_written (c : BitVec 4) : (setErr c s).written = s.written := by unfold setErr; split <;> rfl
@[simp] theorem setErr_actOut (c : BitVec 4) : (setErr c s).actOut = s.actOut := by unfold setErr; split <;> rfl
@[simp] theorem setErr_dutyQ8 (c : BitVec 4) : (setErr c s).dutyQ8 = s.dutyQ8 := by unfold setErr; split <;> rfl
@[simp] theorem setErr_actOutWritten (c : BitVec 4) :
    (setErr c s).actOutWritten =
      s.actOutWritten := by unfold setErr; split <;> rfl
@[simp] theorem setErr_dutyQ8Written (c : BitVec 4) :
    (setErr c s).dutyQ8Written =
      s.dutyQ8Written := by unfold setErr; split <;> rfl
@[simp] theorem setErr_doneCount (c : BitVec 4) :
    (setErr c s).doneCount =
      s.doneCount := by unfold setErr; split <;> rfl
@[simp] theorem setErr_fb (c : BitVec 4) : (setErr c s).fb = s.fb := by unfold setErr; split <;> rfl
@[simp] theorem setErr_fbDriven (c : BitVec 4) : (setErr c s).fbDriven = s.fbDriven := by unfold setErr; split <;> rfl
@[simp] theorem setErr_rdata (c : BitVec 4) : (setErr c s).rdata = s.rdata := by unfold setErr; split <;> rfl
@[simp] theorem setErr_draws (c : BitVec 4) : (setErr c s).draws = s.draws := by unfold setErr; split <;> rfl
@[simp] theorem setErr_unwrittenRead (c : BitVec 4) :
    (setErr c s).unwrittenRead = s.unwrittenRead := by unfold setErr; split <;> rfl
@[simp] theorem setErr_now (c : BitVec 4) : (setErr c s).now = s.now := by unfold setErr; split <;> rfl
@[simp] theorem setErr_stepStart (c : BitVec 4) :
    (setErr c s).stepStart =
      s.stepStart := by unfold setErr; split <;> rfl
@[simp] theorem setErr_eventIndex (c : BitVec 4) :
    (setErr c s).eventIndex =
      s.eventIndex := by unfold setErr; split <;> rfl
@[simp] theorem setErr_arrivals (c : BitVec 4) : (setErr c s).arrivals = s.arrivals := by unfold setErr; split <;> rfl

/-! ### commitInit -/

@[simp] theorem commitInit_mode : (commitInit s).mode = .initialized := by simp only [commitInit]
@[simp] theorem commitInit_err : (commitInit s).err = s.err := by simp only [commitInit]
@[simp] theorem commitInit_errc : (commitInit s).errc = s.errc := by simp only [commitInit]
@[simp] theorem commitInit_regs :
    (commitInit s).regs =
      (s.regs.setAll historyRegs 0#32).set .upperNeg (negatedUpper (s.regs.get .upper)) := by simp only [commitInit]
@[simp] theorem commitInit_written :
    (commitInit s).written =
      (s.written.setAll historyRegs true).set .upperNeg true := by simp only [commitInit]
@[simp] theorem commitInit_actOut : (commitInit s).actOut = s.actOut := by simp only [commitInit]
@[simp] theorem commitInit_dutyQ8 : (commitInit s).dutyQ8 = s.dutyQ8 := by simp only [commitInit]
@[simp] theorem commitInit_actOutWritten : (commitInit s).actOutWritten = s.actOutWritten := by simp only [commitInit]
@[simp] theorem commitInit_dutyQ8Written : (commitInit s).dutyQ8Written = s.dutyQ8Written := by simp only [commitInit]
@[simp] theorem commitInit_doneCount : (commitInit s).doneCount = s.doneCount := by simp only [commitInit]
@[simp] theorem commitInit_fb : (commitInit s).fb = s.fb := by simp only [commitInit]
@[simp] theorem commitInit_fbDriven : (commitInit s).fbDriven = s.fbDriven := by simp only [commitInit]
@[simp] theorem commitInit_rdata : (commitInit s).rdata = s.rdata := by simp only [commitInit]
@[simp] theorem commitInit_draws : (commitInit s).draws = s.draws := by simp only [commitInit]
@[simp] theorem commitInit_unwrittenRead : (commitInit s).unwrittenRead = s.unwrittenRead := by simp only [commitInit]
@[simp] theorem commitInit_now : (commitInit s).now = s.now := by simp only [commitInit]
@[simp] theorem commitInit_stepStart : (commitInit s).stepStart = s.stepStart := by simp only [commitInit]
@[simp] theorem commitInit_eventIndex : (commitInit s).eventIndex = s.eventIndex := by simp only [commitInit]
@[simp] theorem commitInit_arrivals : (commitInit s).arrivals = s.arrivals := by simp only [commitInit]

/-! ### tick -/

@[simp] theorem tick_mode : (tick s).mode = s.mode := by simp only [tick]
@[simp] theorem tick_err : (tick s).err = s.err := by simp only [tick]
@[simp] theorem tick_errc : (tick s).errc = s.errc := by simp only [tick]
@[simp] theorem tick_regs : (tick s).regs = filterStep (captureFb s) s.regs := by simp only [tick]
@[simp] theorem tick_written : (tick s).written = s.written.setAll stepWrites true := by simp only [tick]
@[simp] theorem tick_actOut : (tick s).actOut = (filterStep (captureFb s) s.regs).get .lastOut := by simp only [tick]
@[simp] theorem tick_dutyQ8 : (tick s).dutyQ8 = (filterStep (captureFb s) s.regs).get .u0 := by simp only [tick]
@[simp] theorem tick_actOutWritten : (tick s).actOutWritten = true := by simp only [tick]
@[simp] theorem tick_dutyQ8Written : (tick s).dutyQ8Written = true := by simp only [tick]
@[simp] theorem tick_doneCount : (tick s).doneCount = s.doneCount + 1 := by simp only [tick]
@[simp] theorem tick_fb : (tick s).fb = s.fb := by simp only [tick]
@[simp] theorem tick_fbDriven : (tick s).fbDriven = s.fbDriven := by simp only [tick]
@[simp] theorem tick_rdata : (tick s).rdata = s.rdata := by simp only [tick]
@[simp] theorem tick_draws : (tick s).draws = drawsAfterCapture s := by simp only [tick]
@[simp] theorem tick_unwrittenRead :
    (tick s).unwrittenRead = (s.unwrittenRead <|> firstUnwritten s stepReads) := by simp only [tick, noteReads]
@[simp] theorem tick_now : (tick s).now = s.now := by simp only [tick]
@[simp] theorem tick_stepStart : (tick s).stepStart = s.now := by simp only [tick]
@[simp] theorem tick_eventIndex : (tick s).eventIndex = s.eventIndex := by simp only [tick]
@[simp] theorem tick_arrivals : (tick s).arrivals = s.arrivals := by simp only [tick]

/-! ### consume -/

@[simp] theorem consume_mode (rest : List Arrival) : (consume rest s).mode = s.mode := rfl
@[simp] theorem consume_err (rest : List Arrival) : (consume rest s).err = s.err := rfl
@[simp] theorem consume_errc (rest : List Arrival) : (consume rest s).errc = s.errc := rfl
@[simp] theorem consume_regs (rest : List Arrival) : (consume rest s).regs = s.regs := rfl
@[simp] theorem consume_written (rest : List Arrival) : (consume rest s).written = s.written := rfl
@[simp] theorem consume_actOut (rest : List Arrival) : (consume rest s).actOut = s.actOut := rfl
@[simp] theorem consume_dutyQ8 (rest : List Arrival) : (consume rest s).dutyQ8 = s.dutyQ8 := rfl
@[simp] theorem consume_actOutWritten (rest : List Arrival) : (consume rest s).actOutWritten = s.actOutWritten := rfl
@[simp] theorem consume_dutyQ8Written (rest : List Arrival) : (consume rest s).dutyQ8Written = s.dutyQ8Written := rfl
@[simp] theorem consume_doneCount (rest : List Arrival) : (consume rest s).doneCount = s.doneCount := rfl
@[simp] theorem consume_fb (rest : List Arrival) : (consume rest s).fb = s.fb := rfl
@[simp] theorem consume_fbDriven (rest : List Arrival) : (consume rest s).fbDriven = s.fbDriven := rfl
@[simp] theorem consume_rdata (rest : List Arrival) : (consume rest s).rdata = s.rdata := rfl
@[simp] theorem consume_draws (rest : List Arrival) : (consume rest s).draws = s.draws := rfl
@[simp] theorem consume_unwrittenRead (rest : List Arrival) : (consume rest s).unwrittenRead = s.unwrittenRead := rfl
@[simp] theorem consume_now (rest : List Arrival) : (consume rest s).now = s.now := rfl
@[simp] theorem consume_stepStart (rest : List Arrival) : (consume rest s).stepStart = s.stepStart := rfl
@[simp] theorem consume_eventIndex (rest : List Arrival) :
    (consume rest s).eventIndex =
      s.eventIndex + (s.arrivals.length - rest.length) := rfl
@[simp] theorem consume_arrivals (rest : List Arrival) : (consume rest s).arrivals = rest := rfl

/-! ### pushWord -/

@[simp] theorem pushWord_mode (w : EventWord) : (pushWord w s).mode = s.mode := rfl
@[simp] theorem pushWord_err (w : EventWord) : (pushWord w s).err = s.err := rfl
@[simp] theorem pushWord_errc (w : EventWord) : (pushWord w s).errc = s.errc := rfl
@[simp] theorem pushWord_regs (w : EventWord) : (pushWord w s).regs = s.regs := rfl
@[simp] theorem pushWord_written (w : EventWord) : (pushWord w s).written = s.written := rfl
@[simp] theorem pushWord_actOut (w : EventWord) : (pushWord w s).actOut = s.actOut := rfl
@[simp] theorem pushWord_dutyQ8 (w : EventWord) : (pushWord w s).dutyQ8 = s.dutyQ8 := rfl
@[simp] theorem pushWord_actOutWritten (w : EventWord) : (pushWord w s).actOutWritten = s.actOutWritten := rfl
@[simp] theorem pushWord_dutyQ8Written (w : EventWord) : (pushWord w s).dutyQ8Written = s.dutyQ8Written := rfl
@[simp] theorem pushWord_doneCount (w : EventWord) : (pushWord w s).doneCount = s.doneCount := rfl
@[simp] theorem pushWord_fb (w : EventWord) : (pushWord w s).fb = s.fb := rfl
@[simp] theorem pushWord_fbDriven (w : EventWord) : (pushWord w s).fbDriven = s.fbDriven := rfl
@[simp] theorem pushWord_rdata (w : EventWord) : (pushWord w s).rdata = s.rdata := rfl
@[simp] theorem pushWord_draws (w : EventWord) : (pushWord w s).draws = s.draws := rfl
@[simp] theorem pushWord_unwrittenRead (w : EventWord) : (pushWord w s).unwrittenRead = s.unwrittenRead := rfl
@[simp] theorem pushWord_now (w : EventWord) : (pushWord w s).now = s.now := rfl
@[simp] theorem pushWord_stepStart (w : EventWord) : (pushWord w s).stepStart = s.stepStart := rfl
@[simp] theorem pushWord_eventIndex (w : EventWord) : (pushWord w s).eventIndex = s.eventIndex := rfl
@[simp] theorem pushWord_arrivals (w : EventWord) : (pushWord w s).arrivals = ⟨none, .word w⟩ :: s.arrivals := rfl

end Sys2Proof.Machine
end

