-- ==== Sys2Proof/Laws/Meanings.lean ====
section
/-! SUPPORT. One lemma per meaning: all it can answer. -/

namespace Sys2Proof.Machine

/-- Outside a STEP window a guarded operation is the operation (R226). -/
theorem whenIdle_idle {s : State} (h : stepInProgress s = false) (k : Result) : whenIdle s k = k := by
  simp [whenIdle, h]

/-- Inside a STEP window a guarded operation faults (R226). -/
theorem whenIdle_busy {s : State} (h : stepInProgress s = true) (k : Result) : whenIdle s k = .fault .overlap := by
  simp [whenIdle, h]

theorem whenIdle_next {s t : State} {k : Result} (h : whenIdle s k = .next t) :
    stepInProgress s = false ∧ k = .next t := by
  unfold whenIdle at h
  split at h
  · cases h
  · simp_all

theorem whenIdle_fault {s : State} {k : Result} {f : Fault} (h : whenIdle s k = .fault f) :
    (f = .overlap ∧ stepInProgress s = true) ∨ (stepInProgress s = false ∧ k = .fault f) := by
  unfold whenIdle at h
  split at h
  · cases h; simp_all
  · simp_all

/-- An unstamped event meets no STEP window (R226 item 3). -/
theorem idle_of_unstamped {s : State} (h : s.now = none) : stepInProgress s = false := by
  simp [stepInProgress, h]

theorem idle_of_no_step {s : State} (h : s.stepStart = none) : stepInProgress s = false := by
  unfold stepInProgress
  split <;> simp_all

/-- With a value in every register of a list there is no first one without (R22). -/
theorem firstUnwritten_none {s : State} {rs : List DataReg} (h : ∀ r ∈ rs, s.written.get r = true) :
    firstUnwritten s rs = none := by
  simp only [firstUnwritten, List.find?_eq_none]
  intro r hr
  simp [h r hr]

/-- Reads that find a value everywhere record nothing (log 23). -/
theorem noteReads_held {s : State} {rs : List DataReg} (h : ∀ r ∈ rs, s.written.get r = true) :
    noteReads rs s = s := by
  simp [noteReads, firstUnwritten_none h]

/-- A record, once made, stays (R203; log 23). -/
theorem noteReads_sticky {s : State} {r : DataReg} (h : s.unwrittenRead = some r) (rs : List DataReg) :
    (noteReads rs s).unwrittenRead = some r := by
  simp [h]

/-- What RD answers with (R180, R226), in every state: the read data, in a STEP window the draw counter, and outside one
the record of a read without a value (log 23) are all that can change. -/
theorem execRd_next {slot : Slot} {s t : State} (h : execRd slot s = .next t) :
    (stepInProgress s = true ∧ t = respond (Config.freeWord s.draws) (countDraw s)) ∨
    (stepInProgress s = false ∧ t = respond (readSlot slot s) (noteReads (slotReads slot) s)) := by
  unfold execRd at h
  cases h
  cases hb : stepInProgress s with
  | true => exact .inl ⟨rfl, rfl⟩
  | false => exact .inr ⟨rfl, rfl⟩

/-- RD outside a STEP window (R180). -/
theorem execRd_idle {s : State} (h : stepInProgress s = false) (slot : Slot) :
    execRd slot s = .next (respond (readSlot slot s) (noteReads (slotReads slot) s)) := by
  simp [execRd, h]

/-- INIT answers with the committed configuration when every configuration register holds a value (R118). -/
theorem execInit_next {s t : State} (h : execInit s = .next t) :
    stepInProgress s = false ∧ (∀ r ∈ configRegs, s.written.get r = true) ∧ t = commitInit s := by
  obtain ⟨hi, hk⟩ := whenIdle_next h
  split at hk
  · cases hk
  · rename_i hn
    cases hk
    refine ⟨hi, ?_, rfl⟩
    intro r hr
    have := List.find?_eq_none.mp hn r hr
    simpa using this

theorem execInit_fault {s : State} {f : Fault} (h : execInit s = .fault f) :
    (f = .overlap ∧ stepInProgress s = true) ∨
    ∃ r, f = .initUnconfigured r ∧ r ∈ configRegs ∧ s.written.get r = false := by
  rcases whenIdle_fault h with h | ⟨_, hk⟩
  · exact .inl h
  · split at hk
    · rename_i r hr
      cases hk
      exact .inr ⟨r, rfl, List.mem_of_find?_eq_some hr, by simpa using List.find?_some hr⟩
    · cases hk

theorem execInit_ready {s : State} (hi : stepInProgress s = false) (h : ∀ r ∈ configRegs, s.written.get r = true) :
    execInit s = .next (commitInit s) := by
  simp [execInit, whenIdle_idle hi, firstUnwritten_none h]

/-- STEP, and TRIG alike, answers with one tick (R150). -/
theorem runStep_next {s t : State} (h : runStep s = .next t) :
    s.mode = .initialized ∧ t = tick s := by
  unfold runStep at h
  split at h
  · cases h
  · cases h
    exact ⟨‹_›, rfl⟩

theorem runStep_fault {s : State} {f : Fault} (h : runStep s = .fault f) : f = .stepBeforeInit ∧ s.mode = .uninit := by
  unfold runStep at h
  split at h
  · cases h
    exact ⟨rfl, ‹_›⟩
  · cases h

theorem runStep_ready {s : State} (hm : s.mode = .initialized) : runStep s = .next (tick s) := by
  simp [runStep, hm]

/-- The STEP after a SAMPLE captures its value (R186, R151). -/
@[simp] theorem captureFb_driveFb (v : Sample) (s : State) : captureFb (driveFb v s) = v := rfl

/-- A tick whose inputs all hold a value records nothing (R150; log 14). -/
theorem tick_records_nothing {s : State} (h : ∀ r ∈ stepReads, s.written.get r = true) :
    (tick s).unwrittenRead = s.unwrittenRead := by
  simp [firstUnwritten_none h]

/-- The three ways a guarded write answers: set_err, a cleared STATUS, or a configuration write. -/
theorem exec_decodeDataWrite {r : DataReg} (h : r.isConfig = true) (data : Word) (s : State) :
    exec (decodeDataWrite r data) s = whenIdle s (.next (writeConfig r data s)) := by
  cases r <;> first | rfl | cases h

/-- All the next states of `exec` (R88): what each event does. -/
theorem exec_next {i : Instr} {s t : State} (h : exec i s = .next t) :
    (∃ slot, i = .rd slot ∧ stepInProgress s = false ∧ t = respond (readSlot slot s) (noteReads (slotReads slot) s)) ∨
    (∃ slot, i = .rd slot ∧ stepInProgress s = true ∧ t = respond (Config.freeWord s.draws) (countDraw s)) ∨
    (i = .init ∧ stepInProgress s = false ∧ (∀ r ∈ configRegs, s.written.get r = true) ∧ t = commitInit s) ∨
    ((i = .step ∨ i = .trig) ∧ stepInProgress s = false ∧ s.mode = .initialized ∧ t = tick s) ∨
    (∃ data, i = .cmdRsvd data ∧ stepInProgress s = false ∧ t = setErr errReservedCommand s) ∨
    (∃ data, i = .wrStatus data ∧ stepInProgress s = false ∧ t = if data.getLsbD 1 then clearErr s else s) ∨
    (∃ r data, r.isConfig = true ∧ i = decodeDataWrite r data ∧ stepInProgress s = false ∧ t = writeConfig r data s) ∨
    (((∃ slot data, i = .wrRo slot data) ∨ ∃ off data, i = .wrRsvd off data) ∧ stepInProgress s = false ∧
      t = setErr errReadOnly s) ∨
    (∃ v, i = .sample v ∧ t = driveFb v s) ∨
    (i = .reset ∧ execReset s = .next t) := by
  have write : ∀ {r : DataReg} {data : Word}, r.isConfig = true → i = decodeDataWrite r data →
      whenIdle s (.next (writeConfig r data s)) = .next t →
      ∃ r data, r.isConfig = true ∧ i = decodeDataWrite r data ∧ stepInProgress s = false ∧ t = writeConfig r data s := by
    intro r data hr hd hw
    obtain ⟨hi, hk⟩ := whenIdle_next hw
    cases hk
    exact ⟨r, data, hr, hd, hi, rfl⟩
  cases i with
  | rd slot =>
    rcases execRd_next h with ⟨hb, ht⟩ | ⟨hi, ht⟩
    · exact .inr (.inl ⟨slot, rfl, hb, ht⟩)
    · exact .inl ⟨slot, rfl, hi, ht⟩
  | init => exact .inr (.inr (.inl ⟨rfl, execInit_next h⟩))
  | step =>
    obtain ⟨hi, hk⟩ := whenIdle_next h
    exact .inr (.inr (.inr (.inl ⟨.inl rfl, hi, runStep_next hk⟩)))
  | trig =>
    obtain ⟨hi, hk⟩ := whenIdle_next h
    exact .inr (.inr (.inr (.inl ⟨.inr rfl, hi, runStep_next hk⟩)))
  | cmdRsvd data =>
    obtain ⟨hi, hk⟩ := whenIdle_next h
    cases hk
    exact .inr (.inr (.inr (.inr (.inl ⟨data, rfl, hi, rfl⟩))))
  | wrStatus data =>
    obtain ⟨hi, hk⟩ := whenIdle_next h
    cases hk
    exact .inr (.inr (.inr (.inr (.inr (.inl ⟨data, rfl, hi, rfl⟩)))))
  | wrRo slot data =>
    obtain ⟨hi, hk⟩ := whenIdle_next h
    cases hk
    exact .inr (.inr (.inr (.inr (.inr (.inr (.inr (.inl ⟨.inl ⟨slot, data, rfl⟩, hi, rfl⟩)))))))
  | wrRsvd off data =>
    obtain ⟨hi, hk⟩ := whenIdle_next h
    cases hk
    exact .inr (.inr (.inr (.inr (.inr (.inr (.inr (.inl ⟨.inr ⟨off, data, rfl⟩, hi, rfl⟩)))))))
  | sample v =>
    cases h
    exact .inr (.inr (.inr (.inr (.inr (.inr (.inr (.inr (.inl ⟨v, rfl, rfl⟩))))))))
  | reset => exact .inr (.inr (.inr (.inr (.inr (.inr (.inr (.inr (.inr ⟨rfl, h⟩))))))))
  | wrB0 data => exact .inr (.inr (.inr (.inr (.inr (.inr (.inl (write (r := .b0) rfl rfl h)))))))
  | wrB1 data => exact .inr (.inr (.inr (.inr (.inr (.inr (.inl (write (r := .b1) rfl rfl h)))))))
  | wrB2 data => exact .inr (.inr (.inr (.inr (.inr (.inr (.inl (write (r := .b2) rfl rfl h)))))))
  | wrB3 data => exact .inr (.inr (.inr (.inr (.inr (.inr (.inl (write (r := .b3) rfl rfl h)))))))
  | wrA1 data => exact .inr (.inr (.inr (.inr (.inr (.inr (.inl (write (r := .a1) rfl rfl h)))))))
  | wrA2 data => exact .inr (.inr (.inr (.inr (.inr (.inr (.inl (write (r := .a2) rfl rfl h)))))))
  | wrA3 data => exact .inr (.inr (.inr (.inr (.inr (.inr (.inl (write (r := .a3) rfl rfl h)))))))
  | wrRef data => exact .inr (.inr (.inr (.inr (.inr (.inr (.inl (write (r := .ref) rfl rfl h)))))))
  | wrUpper data => exact .inr (.inr (.inr (.inr (.inr (.inr (.inl (write (r := .upper) rfl rfl h)))))))
  | wrLower data => exact .inr (.inr (.inr (.inr (.inr (.inr (.inl (write (r := .lower) rfl rfl h)))))))

/-- A configuration write changes one register and its flag in UNINIT, and only ERR and ERRC otherwise (R111). -/
theorem writeConfig_uninit {s : State} (h : s.mode = .uninit) (r : DataReg) (data : Word) :
    writeConfig r data s = writeReg r data s := by
  simp [writeConfig, h]

theorem writeConfig_initialized {s : State} (h : s.mode = .initialized) (r : DataReg) (data : Word) :
    writeConfig r data s = setErr errLocked s := by
  simp [writeConfig, h]

/-- INIT on one register: history zero, UPPER_NEG formed, all else as it was (R118). -/
theorem commitInit_get (s : State) (r : DataReg) :
    (commitInit s).regs.get r =
      if r = .upperNeg then negatedUpper (s.regs.get .upper) else if r ∈ historyRegs then 0#32 else s.regs.get r := by
  simp only [commitInit_regs, get_set, get_setAll]

theorem commitInit_held (s : State) (r : DataReg) :
    (commitInit s).written.get r = if r = .upperNeg then true else if r ∈ historyRegs then true else s.written.get r := by
  simp only [commitInit_written, get_set, get_setAll]

theorem tick_held (s : State) (r : DataReg) :
    (tick s).written.get r = if r ∈ stepWrites then true else s.written.get r := by
  simp only [tick_written, get_setAll]

/-- A step that answers a next state holds its state, or performs the fetched event. -/
theorem fetch_some {s s1 : State} {i : Instr} (h : fetch s = some (.ok (i, s1))) :
    ∃ a rest s0, takeNext s.arrivals = some (a, rest) ∧ inputInstr a.input = .ok i ∧ arrive a.stamp s = .ok s0 ∧
      s1 = consume rest s0 := by
  unfold fetch at h
  split at h
  · cases h
  · rename_i a rest ha
    split at h
    · cases h
    · rename_i j hj
      split at h
      · cases h
      · rename_i s0 hs0
        cases h
        exact ⟨a, rest, s0, ha, hj, hs0, rfl⟩

/-- Arrival changes only the current cycle and, without a stamp, the STEP window. -/
theorem arrive_ok {stamp : Option Nat} {s s0 : State} (h : arrive stamp s = .ok s0) :
    s0 = { s with now := stamp, stepStart := if stamp = none then none else s.stepStart } := by
  unfold arrive at h
  split at h
  · cases h; rfl
  · split at h
    · cases h; rfl
    · split at h
      · cases h
      · cases h; rfl

end Sys2Proof.Machine
end

