-- ==== Sys2Proof/Laws/PerInstr.lean ====
section
/-! SUPPORT. One family of facts per instruction: its event word has RSV = 0 and a KIND of R81 (spec/30_encoding.md R80, R81, R82 items 1 and 2). -/

namespace Sys2Proof.Laws.EncodedFields

/-- The event word of an instruction has RSV = 0 and one of the five KIND values of R81. -/
def Statement (i : Instr) : Prop := rsvField (encode i) = 0#21 ∧ (kindField (encode i)).toNat ≤ 4

/-- Every word built by `eventWord` from a KIND of R81 has these fields. -/
theorem of_eventWord (data : Word) {kind : BitVec 3} (off : Offset) (h : kind.toNat ≤ 4) :
    rsvField (eventWord data kind off) = 0#21 ∧ (kindField (eventWord data kind off)).toNat ≤ 4 := by
  simpa using h

theorem rd (slot : Slot) : Statement (.rd slot) := of_eventWord _ _ (by decide)
theorem init : Statement .init := of_eventWord _ _ (by decide)
theorem step : Statement .step := of_eventWord _ _ (by decide)
theorem cmdRsvd (data : Word) : Statement (.cmdRsvd data) := of_eventWord _ _ (by decide)
theorem wrStatus (data : Word) : Statement (.wrStatus data) := of_eventWord _ _ (by decide)
theorem wrB0 (data : Word) : Statement (.wrB0 data) := of_eventWord _ _ (by decide)
theorem wrB1 (data : Word) : Statement (.wrB1 data) := of_eventWord _ _ (by decide)
theorem wrB2 (data : Word) : Statement (.wrB2 data) := of_eventWord _ _ (by decide)
theorem wrB3 (data : Word) : Statement (.wrB3 data) := of_eventWord _ _ (by decide)
theorem wrA1 (data : Word) : Statement (.wrA1 data) := of_eventWord _ _ (by decide)
theorem wrA2 (data : Word) : Statement (.wrA2 data) := of_eventWord _ _ (by decide)
theorem wrA3 (data : Word) : Statement (.wrA3 data) := of_eventWord _ _ (by decide)
theorem wrRef (data : Word) : Statement (.wrRef data) := of_eventWord _ _ (by decide)
theorem wrUpper (data : Word) : Statement (.wrUpper data) := of_eventWord _ _ (by decide)
theorem wrLower (data : Word) : Statement (.wrLower data) := of_eventWord _ _ (by decide)
theorem wrRo (slot : Slot) (data : Word) : Statement (.wrRo slot data) := of_eventWord _ _ (by decide)
theorem wrRsvd (off : Offset) (data : Word) : Statement (.wrRsvd off data) := of_eventWord _ _ (by decide)
theorem trig : Statement .trig := of_eventWord _ _ (by decide)
theorem sample (v : Sample) : Statement (.sample v) := of_eventWord _ _ (by decide)
theorem reset : Statement .reset := of_eventWord _ _ (by decide)

end Sys2Proof.Laws.EncodedFields
end

