-- ==== Sys2Proof/Laws/Step.lean ====
section
/-! SUPPORT. What `exec` can fault with, and how the next arrival is taken. -/

namespace Sys2Proof.Machine

/-- All the faults of `exec`, each with its event and its condition (R203, R119, R163, R226). -/
theorem exec_fault {i : Instr} {s : State} {f : Fault} (h : exec i s = .fault f) :
    (f = .overlap ∧ stepInProgress s = true ∧ (i = .trig ∨ isBusWrite i = true)) ∨
    (f = .stepBeforeInit ∧ s.mode = .uninit ∧ (i = .step ∨ i = .trig)) ∨
    (∃ r, f = .initUnconfigured r ∧ i = .init ∧ r ∈ configRegs ∧ s.written.get r = false) := by
  have busy : ∀ {t : State}, (i = .trig ∨ isBusWrite i = true) → whenIdle s (.next t) = .fault f →
      f = .overlap ∧ stepInProgress s = true ∧ (i = .trig ∨ isBusWrite i = true) := by
    intro t hi hw
    rcases whenIdle_fault hw with ⟨hf, hb⟩ | ⟨_, hk⟩
    · exact ⟨hf, hb, hi⟩
    · cases hk
  have ticked : (i = .step ∨ i = .trig) → (i = .trig ∨ isBusWrite i = true) → whenIdle s (runStep s) = .fault f →
      (f = .overlap ∧ stepInProgress s = true ∧ (i = .trig ∨ isBusWrite i = true)) ∨
      (f = .stepBeforeInit ∧ s.mode = .uninit ∧ (i = .step ∨ i = .trig)) ∨
      (∃ r, f = .initUnconfigured r ∧ i = .init ∧ r ∈ configRegs ∧ s.written.get r = false) := by
    intro hi hw hk
    rcases whenIdle_fault hk with ⟨hf, hb⟩ | ⟨_, hr⟩
    · exact .inl ⟨hf, hb, hw⟩
    · obtain ⟨hf, hm⟩ := runStep_fault hr
      exact .inr (.inl ⟨hf, hm, hi⟩)
  cases i with
  | rd _ => cases h
  | init =>
    rcases execInit_fault h with ⟨hf, hb⟩ | ⟨r, hf, hr, hu⟩
    · exact .inl ⟨hf, hb, .inr rfl⟩
    · exact .inr (.inr ⟨r, hf, rfl, hr, hu⟩)
  | step => exact ticked (.inl rfl) (.inr rfl) h
  | trig => exact ticked (.inr rfl) (.inl rfl) h
  | cmdRsvd _ => exact .inl (busy (.inr rfl) h)
  | wrStatus _ => exact .inl (busy (.inr rfl) h)
  | wrB0 _ => exact .inl (busy (.inr rfl) h)
  | wrB1 _ => exact .inl (busy (.inr rfl) h)
  | wrB2 _ => exact .inl (busy (.inr rfl) h)
  | wrB3 _ => exact .inl (busy (.inr rfl) h)
  | wrA1 _ => exact .inl (busy (.inr rfl) h)
  | wrA2 _ => exact .inl (busy (.inr rfl) h)
  | wrA3 _ => exact .inl (busy (.inr rfl) h)
  | wrRef _ => exact .inl (busy (.inr rfl) h)
  | wrUpper _ => exact .inl (busy (.inr rfl) h)
  | wrLower _ => exact .inl (busy (.inr rfl) h)
  | wrRo _ _ => exact .inl (busy (.inr rfl) h)
  | wrRsvd _ _ => exact .inl (busy (.inr rfl) h)
  | sample _ => cases h
  | reset => cases h

/-- An arrival that spells no event is taken first, so that the step refuses it, stamped or not. -/
theorem takeNext_of_spellsNothing {a : Arrival} (rest : List Arrival) (h : spellsNothing a = true) :
    ∃ later, takeNext (a :: rest) = some (a, later) := by
  obtain ⟨stamp, input⟩ := a
  cases stamp with
  | none => exact ⟨rest, rfl⟩
  | some t => exact ⟨rest.dropWhile (fun b => b.stamp == some t), by simp [takeNext, arbitrate, h]⟩

/-- A stamped arrival that is not earlier than the current cycle sets that cycle (log 8, log 11). -/
theorem arrive_stamped {s : State} {t : Nat} (h : ∀ earlier : Nat, s.now = some earlier → earlier ≤ t) :
    arrive (some t) s = .ok { s with now := some t } := by
  unfold arrive
  cases hn : s.now with
  | none => rfl
  | some earlier =>
    have := h earlier hn
    simp only
    rw [if_neg (by omega)]

/-- A step whose fetch answers an event performs it. -/
theorem step_of_fetch {s s1 : State} {i : Instr} (h : fetch s = some (.ok (i, s1))) : step s = exec i s1 := by
  simp [step, h]

/-- With an arrival taken, spelled and in time, the step performs its event. -/
theorem step_of_takeNext {s s0 : State} {a : Arrival} {rest : List Arrival} {i : Instr}
    (ht : takeNext s.arrivals = some (a, rest)) (hi : inputInstr a.input = .ok i) (ha : arrive a.stamp s = .ok s0) :
    step s = exec i (consume rest s0) :=
  step_of_fetch (by simp [fetch, ht, hi, ha])

end Sys2Proof.Machine
end

