-- ==== Sys2Proof/Tests/Slice0.lean ====
section
/-! SUPPORT. Tests: ill-formed terms, words written out from the spec's encodings (spec/95_test_vectors.md V-F30), single steps from the spec's vectors (V-F40 to V-F44, V-F70), and a witness for the hypotheses of each obligation. -/

namespace Sys2Proof.Machine.Tests

/-! ## Well-formedness refuses each ill-formed operand -/

theorem test_rd_of_mapped_offset_as_reserved_is_ill_formed : (Instr.rd (.reserved 0x10#8)).wellFormed = false := by decide
theorem test_rd_of_misaligned_offset_is_ill_formed : (Instr.rd (.reserved 0x61#8)).wellFormed = false := by decide
theorem test_reserved_command_1_is_ill_formed : (Instr.cmdRsvd 1#32).wellFormed = false := by decide
theorem test_reserved_command_2_is_ill_formed : (Instr.cmdRsvd 2#32).wellFormed = false := by decide
theorem test_read_only_write_of_upper_is_ill_formed : (Instr.wrRo (.data .upper) 0#32).wellFormed = false := by decide
theorem test_read_only_write_of_status_is_ill_formed : (Instr.wrRo .status 0#32).wellFormed = false := by decide
theorem test_reserved_write_at_shifts_is_ill_formed : (Instr.wrRsvd 0x08#8 0#32).wellFormed = false := by decide
theorem test_reserved_write_misaligned_is_ill_formed : (Instr.wrRsvd 0xFE#8 0#32).wellFormed = false := by decide

/-! ## Decoding, from the words of R80 to R89 and V-F30 -/

theorem test_decode_rd_last_out : decode 0x000000000000005C#64 = .ok (.rd (.data .lastOut)) := by decide
theorem test_decode_rd_reserved : decode 0x00000000000000FC#64 = .ok (.rd (.reserved 0xFC#8)) := by decide
theorem test_decode_init : decode 0x0000000120000000#64 = .ok .init := by decide
theorem test_decode_step : decode 0x0000000220000000#64 = .ok .step := by decide
theorem test_decode_cmdRsvd_zero : decode 0x0000000020000000#64 = .ok (.cmdRsvd 0#32) := by decide
theorem test_decode_cmdRsvd_high_bit : decode 0x8000000120000000#64 = .ok (.cmdRsvd 0x80000001#32) := by decide
theorem test_decode_wrStatus : decode 0x0000000220000004#64 = .ok (.wrStatus 2#32) := by decide
theorem test_decode_wrB0 : decode 0x0002666620000010#64 = .ok (.wrB0 157286#32) := by decide
theorem test_decode_wrB1 : decode 0x0000000120000014#64 = .ok (.wrB1 1#32) := by decide
theorem test_decode_wrB2 : decode 0x0000000120000018#64 = .ok (.wrB2 1#32) := by decide
theorem test_decode_wrB3 : decode 0x000000012000001C#64 = .ok (.wrB3 1#32) := by decide
theorem test_decode_wrA1 : decode 0x0000000120000020#64 = .ok (.wrA1 1#32) := by decide
theorem test_decode_wrA2 : decode 0x0000000120000024#64 = .ok (.wrA2 1#32) := by decide
theorem test_decode_wrA3 : decode 0x0000000120000028#64 = .ok (.wrA3 1#32) := by decide
theorem test_decode_wrRef : decode 0x000000642000002C#64 = .ok (.wrRef 100#32) := by decide
theorem test_decode_wrUpper : decode 0x0000FE0020000030#64 = .ok (.wrUpper 65024#32) := by decide
theorem test_decode_wrLower : decode 0xFFFFFFF620000038#64 = .ok (.wrLower 0xFFFFFFF6#32) := by decide
theorem test_decode_wrRo : decode 0x0000000020000034#64 = .ok (.wrRo (.data .upperNeg) 0#32) := by decide
theorem test_decode_wrRsvd : decode 0x00000007200000FC#64 = .ok (.wrRsvd 0xFC#8 7#32) := by decide
theorem test_decode_trig : decode 0x0000000040000000#64 = .ok .trig := by decide
theorem test_decode_sample : decode 0x00000FFF60000000#64 = .ok (.sample 4095#12) := by decide
theorem test_decode_reset : decode 0x0000000080000000#64 = .ok .reset := by decide
theorem test_decode_wide_sample_refused : decode 0x0000100060000000#64 = .error .sampleTooWide := by decide
theorem test_decode_misaligned_read_refused : decode 0x0000000000000006#64 = .error .misalignedOffset := by decide
theorem test_decode_read_with_data_refused : decode 0x0000000100000004#64 = .error .dataNotZero := by decide
theorem test_decode_reserved_kind_refused : decode 0x00000000A0000000#64 = .error .reservedKind := by decide
theorem test_decode_reserved_bit_refused : decode 0x0000000020000100#64 = .error .reservedBitsSet := by decide
theorem test_decode_trig_with_offset_refused : decode 0x0000000040000004#64 = .error .offsetNotZero := by decide
theorem test_table_word_init : decodeTableWord 64 0x0000000120000000 = some .init := by decide
theorem test_encode_tick_word : encode (.sample 4095#12) = 0x00000FFF60000000#64 := by decide

/-! ## Small states -/

/-- A register file that is zero but for B0, REF, UPPER and UPPER_NEG. -/
def smallFile (b0 ref upper upperNeg : Word) : RegFile Word :=
  { RegFile.fill 0#32 with b0 := b0, ref := ref, upper := upper, upperNeg := upperNeg }

/-- INITIALIZED with that file, before any STEP, FB driven to `fb`. -/
def ready (x : RegFile Word) (fb : Sample) : State :=
  { State.reset with
    mode := .initialized, regs := x, written := { RegFile.fill true with lastOut := false }, fb := fb, fbDriven := true }

/-- V-F43-1's file: B0 = 65536, REF = 100, UPPER = 65024. -/
def file1 : RegFile Word := smallFile 65536#32 100#32 65024#32 0xFFFF0200#32

/-- V-F43-1's state before its tick. -/
def ready1 : State := ready file1 0#12

/-- UNINIT with the ten configuration registers written, all zero but UPPER. -/
def configured (upper : Word) : State :=
  { State.reset with
    regs := smallFile 0#32 0#32 upper 0#32
    written := (RegFile.fill false).setAll [.b0, .b1, .b2, .b3, .a1, .a2, .a3, .ref, .upper, .lower] true }

/-- INITIALIZED with an error of code 1 reported: STATUS = 0x13. -/
def errored : State := { ready1 with err := true, errc := 1#4 }

/-- The word a register holds after one event; `none` where the event stops. -/
def regAfter (i : Instr) (s : State) (r : DataReg) : Option Word :=
  match exec i s with
  | .next t => some (t.regs.get r)
  | .fault _ | .refused _ => none

/-- STATUS after one event; `none` where the event stops. -/
def statusAfter (i : Instr) (s : State) : Option Word :=
  match exec i s with
  | .next t => some (statusWord t)
  | .fault _ | .refused _ => none

/-- The word a read returns; `none` where it stops. -/
def readBack (slot : Slot) (s : State) : Option Word :=
  match exec (.rd slot) s with
  | .next t => some t.rdata
  | .fault _ | .refused _ => none

/-- The fault of one event. -/
def faultOf (i : Instr) (s : State) : Option Fault :=
  match exec i s with
  | .fault f => some f
  | .next _ | .refused _ => none

/-! ## One step from the spec's vectors -/

theorem test_rd_shifts_after_reset : readBack .shifts State.reset = some 0x00080B03#32 := by decide
/-- V-F44-2's and V-F44-4's UnwrittenRead, as the record of log 23; the word is that of log 1. -/
theorem test_unwritten_reads_complete_and_are_recorded :
    (∃ t : State, exec (.rd (.data .b0)) State.reset = .next t ∧ t.rdata = 0#32 ∧ t.unwrittenRead = some .b0) ∧
    ∃ t : State, exec (.rd (.data .lastOut)) ready1 = .next t ∧ t.unwrittenRead = some .lastOut :=
  ⟨⟨_, rfl, rfl, rfl⟩, ⟨_, rfl, rfl⟩⟩
theorem test_init_forms_upper_neg : regAfter .init (configured 65024#32) .upperNeg = some 0xFFFF0200#32 := by decide
theorem test_init_negates_the_most_negative : regAfter .init (configured 0x80000000#32) .upperNeg = some 0x80000000#32 := by
  decide
/-- V-F41-9: REF comes before LOWER in R118's order. -/
theorem test_init_names_the_first_missing_register :
    faultOf .init { configured 0#32 with
      written := (configured 0#32).written.setAll [.lower, .ref] false } = some (.initUnconfigured .ref) := by decide
theorem test_step_first_tick : regAfter .step ready1 .u0 = some 3200#32 := by decide
theorem test_step_extracts_output : regAfter .step ready1 .lastOut = some 12#32 := by decide
theorem test_trig_saturates_low :
    regAfter .trig (ready (smallFile 131072#32 0#32 65024#32 0xFFFF0200#32) 4000#12) .u0 = some 0xFFFF0200#32 := by
  decide
/-- V-F43-4: asr(−1000, 11) = −1, where truncation would give 0. -/
theorem test_trig_shifts_toward_minus_infinity :
    regAfter .trig (ready { smallFile 1000#32 0#32 65024#32 0xFFFF0200#32 with lower := 0xFFFFFFF6#32 } 1#12) .lastOut =
      some 0xFFFFFFFF#32 := by decide
/-- V-F43-6: the product wraps. -/
theorem test_step_wraps_the_product :
    regAfter .step (ready (smallFile 1048576#32 4095#32 65024#32 0xFFFF0200#32) 0#12) .u0 = some 0xFFFFFE00#32 := by
  decide
/-- V-F43-17: the third tick's exact stage-1 sum −4294901760 wraps to +65536. -/
theorem test_stage_one_wraps :
    (feedBackStage { RegFile.fill 0#32 with a1 := 0xFFFF8000#32, a2 := 0xFFFF8000#32, u0 := 65535#32, u1 := 65535#32 }).1 =
      65536 := by decide
/-- V-F43-7: the fourth tick, errors 16, 32, 48 in E2, E1, E0 and 64 new. -/
theorem test_each_coefficient_meets_its_lag :
    regAfter .trig (ready { smallFile 32768#32 100#32 65024#32 0xFFFF0200#32 with
      b1 := 65536#32, b2 := 98304#32, b3 := 131072#32, e0 := 48#32, e1 := 32#32, e2 := 16#32 } 36#12) .u0 =
      some 5120#32 := by decide
/-- V-F43-9: LOWER above asr(UPPER, 8), and no second upper clamp. -/
theorem test_no_second_upper_clamp :
    regAfter .step (ready { smallFile 131072#32 4000#32 65024#32 0xFFFF0200#32 with lower := 300#32 } 0#12) .lastOut =
      some 300#32 := by decide
/-- V-F43-13: the upper test comes first. -/
theorem test_upper_test_comes_first :
    regAfter .step (ready (smallFile 0#32 0#32 0xFFFFFF00#32 256#32) 0#12) .u0 = some 0xFFFFFF00#32 := by decide
theorem test_trig_before_init_faults : faultOf .trig State.reset = some .stepBeforeInit := by decide
theorem test_cmdRsvd_three_is_no_init : statusAfter (.cmdRsvd 3#32) State.reset = some 0x12#32 := by decide
theorem test_cmdRsvd_keeps_history : regAfter (.cmdRsvd 0x80000001#32) ready1 .ref = some 100#32 := by decide
theorem test_wrStatus_bit_zero_is_ignored : statusAfter (.wrStatus 1#32) errored = some 0x13#32 := by decide
theorem test_wrStatus_clears : statusAfter (.wrStatus 0xFFFFFFFF#32) errored = some 0x01#32 := by decide
theorem test_wrB0_uninit : regAfter (.wrB0 7#32) State.reset .b0 = some 7#32 := by decide
theorem test_wrB0_locked : statusAfter (.wrB0 5#32) ready1 = some 0x33#32 := by decide
theorem test_wrB1_uninit : regAfter (.wrB1 7#32) State.reset .b1 = some 7#32 := by decide
theorem test_wrB2_uninit : regAfter (.wrB2 7#32) State.reset .b2 = some 7#32 := by decide
theorem test_wrB3_uninit : regAfter (.wrB3 7#32) State.reset .b3 = some 7#32 := by decide
theorem test_wrA1_uninit : regAfter (.wrA1 7#32) State.reset .a1 = some 7#32 := by decide
theorem test_wrA2_uninit : regAfter (.wrA2 7#32) State.reset .a2 = some 7#32 := by decide
theorem test_wrA3_uninit : regAfter (.wrA3 7#32) State.reset .a3 = some 7#32 := by decide
theorem test_wrRef_uninit : regAfter (.wrRef 7#32) State.reset .ref = some 7#32 := by decide
theorem test_wrUpper_uninit : regAfter (.wrUpper 1000#32) State.reset .upper = some 1000#32 := by decide
theorem test_wrUpper_keeps_first_cause : statusAfter (.wrUpper 1#32) { errored with errc := 3#4 } = some 0x33#32 := by decide
theorem test_wrLower_uninit : regAfter (.wrLower 7#32) State.reset .lower = some 7#32 := by decide
theorem test_wrRo_reports : statusAfter (.wrRo (.data .e0) 5#32) ready1 = some 0x23#32 := by decide
theorem test_wrRo_keeps_first_cause : statusAfter (.wrRo (.data .lastOut) 5#32) errored = some 0x13#32 := by decide
theorem test_wrRsvd_reports : statusAfter (.wrRsvd 0x60#8 7#32) ready1 = some 0x23#32 := by decide
/-- V-F44-15: a SAMPLE is accepted in UNINIT. -/
theorem test_sample_in_uninit : ∃ t : State, exec (.sample 5#12) State.reset = .next t ∧ t.fb = 5#12 := ⟨_, rfl, rfl⟩
theorem test_reset_clears_status : statusAfter .reset errored = some 0#32 := by decide
theorem test_reset_leaves_no_value : ∃ t : State, exec .reset ready1 = .next t ∧ t.written.get .b0 = false ∧ t.fb = 0#12 :=
  ⟨_, rfl, rfl, rfl⟩
/-- V-F44-17: before any SAMPLE the captured value is free; with B0 = 0 the output does not depend on it. -/
theorem test_undriven_port_is_free :
    ∃ t : State, exec .step { ready (smallFile 0#32 5#32 65024#32 0xFFFF0200#32) 0#12 with fbDriven := false } = .next t ∧
      t.draws = 1 ∧ s32 (t.regs.get .e0) = wrap32 (5 - (Config.freeSample 0).toNat) := by
  refine ⟨_, rfl, rfl, ?_⟩
  rw [tick_regs, s32_filterStep_e0]
  rfl
/-- V-F40-1: conversion truncates toward zero. -/
theorem test_from_real_truncates : fromReal (-3 / 10) 19 = -157286 := by decide +kernel
/-- V-F42-5's last tick. -/
theorem test_reference_tick :
    (exactRefStep 36 { refInit ⟨1/16, 1/8, 3/16, 1/4, 0, 0, 0, 1, 100, 0, 255⟩ with fE0 := 48, fE1 := 32, fE2 := 16 }).fLast =
      some 20 := by
  norm_num [exactRefStep, refStep, refInit, clampRat, truncRat]
  rfl
/-- R136 rounds no difference: binary32 would turn 2^24 + 1 into 2^24, and a rounding to 0 shows the same. -/
theorem test_reference_error_is_not_rounded :
    (refStep (fun _ => 0) 0 { refInit ⟨1/16, 1/8, 3/16, 1/4, 0, 0, 0, 1, 2 ^ 24 + 1, 0, 255⟩ with fE0 := 48 }).fE0 =
      2 ^ 24 + 1 := by norm_num [refStep, refInit]
theorem test_assemble_comment_only : assembleLine [' ', ';', 'R', 'D'] = some [] := by decide
theorem test_assemble_hex_write :
    assembleLine ['W', 'R', ' ', '@', '0', 'x', '6', '0', ',', ' ', '0', 'x', '7', ' ', ';', 'c'] =
      some [0x0000000720000060#64] := by decide
theorem test_digits : digitValue '9' = some 9 ∧ digitValue 'A' = some 10 ∧ digitValue 'f' = some 15 ∧
    digitValue ':' = none ∧ digitValue 'G' = none ∧ digitValue '/' = none := by decide
theorem test_parse_rationals : parseRational ['-', '0', '.', '3'] = some (-3 / 10) ∧
    parseRational ['1', '/', '8'] = some (1 / 8) ∧ parseRational ['2', '5', '5'] = some 255 ∧
    parseRational ['1', '/', '0'] = none ∧ parseRational ['.', '5'] = none := by decide +kernel
/-- V-F41-1, V-F41-4 and V-F41-5: the first word of INITIALIZE writes B0 = 157286, the last is INIT. -/
theorem test_assemble_initialize :
    ((assembleTokens [['I', 'N', 'I', 'T', 'I', 'A', 'L', 'I', 'Z', 'E'], ['0', '.', '3'], ['0'], ['0'], ['0'],
      ['1', '.', '5'], ['-', '2'], ['0'], ['1'], ['1', '0', '0'], ['0'], ['2', '5', '5']]).map
        (fun ws => (ws.head?, ws[8]?, ws.length, ws.getLast?))) =
      some (some 0x0002666620000010#64, some 0x0000FE0020000030#64, 11, some 0x0000000120000000#64) := by decide +kernel
theorem test_assemble_negative_write :
    assembleLine ['W', 'R', ' ', 'L', 'O', 'W', 'E', 'R', ',', ' ', '-', '1', '0'] = some [0xFFFFFFF620000038#64] := by decide

/-- V-F43-5's three ticks by the closed form of R166, newest first. -/
theorem test_closed_form_of_three_ticks :
    closedOutputs { file1 with a1 := 16384#32 } (errorsOf 100#32 [0#12, 0#12, 0#12]) = [9600, 6400, 3200] := by decide

/-! ## A witness for the hypotheses of each statement -/

/-- V-F70-5: INITIALIZED, a TRIG taken in cycle 10, and an event in hand in cycle `t`. -/
def busyAt (t : Nat) : State := { ready1 with now := some t, stepStart := some 10, doneCount := 1 }

/-- The first cycle after that window. -/
def freeCycle : Nat := 10 + Config.stepCycles

/-- The state after reset with a transcript to come. -/
def awaiting (as : List Arrival) : State := { State.reset with arrivals := as }

/-- An unstamped word. -/
def unstamped (w : EventWord) : Arrival := ⟨none, .word w⟩

/-- A word stamped with cycle 7. -/
def atSeven (w : EventWord) : Arrival := ⟨some 7, .word w⟩

/-- A word of the bus at byte `off` of the window. -/
def busAt (off width : Nat) (data : Option Word) : BusAccess := ⟨Config.base + off, width, data⟩

/-- V-F43-5's file. -/
def feedbackFile : RegFile Word := { file1 with a1 := 16384#32 }

/-- An Initializer whose coefficients are exact in the fixed formats. -/
def exactInputs : InitializerInputs := ⟨1/8, 0, 0, 0, 1, 0, 0, 1, 100, 0, 255⟩

/-- Its ten words. -/
def exactWords : ConfigWords :=
  ⟨65536#32, 0#32, 0#32, 0#32, 16384#32, 0#32, 0#32, 100#32, 65024#32, 0#32⟩

theorem busy_at_start : stepInProgress (busyAt 10) = true := by
  simp [stepInProgress, busyAt, Config.stepCycles]

theorem idle_after_window : stepInProgress (busyAt freeCycle) = false := by
  simp [stepInProgress, busyAt, freeCycle]

theorem inv_ready1 : Inv ready1 where
  status := by unfold StatusCoherent; decide
  configuration := by intro _ r; cases r <;> decide
  unformed := by intro h; exact absurd h (by decide)
  upperNeg := by intro _; decide
  thirdError := by intro _; decide
  ports := by unfold PortsMirror; decide
  floor := by intro _ h; exact absurd h (by decide)
  outputs := by intro _ _; unfold WithinBound; decide
  errors := by intro _ _; unfold WithinBound; decide
  counted := by intro h; exact absurd rfl h

theorem witness_EncodedEventDecodesBack :
    (Instr.rd (.reserved 0x60#8)).wellFormed = true ∧ (Instr.rd (.reserved 0xFC#8)).wellFormed = true ∧
    (Instr.cmdRsvd 0#32).wellFormed = true ∧ (Instr.cmdRsvd 3#32).wellFormed = true ∧
    (Instr.wrRo (.data .lastOut) 0#32).wellFormed = true ∧ (Instr.wrRsvd 0x3C#8 0#32).wellFormed = true := by decide
theorem witness_DecodedEventReencodes : decode 0x00000007200000FC#64 = .ok (.wrRsvd 0xFC#8 7#32) := by decide
theorem witness_OpcodeTableDecidesTheInstruction :
    decode 0x0000000120000000#64 = .ok .init ∧ decode 0x0000000020000100#64 = .error .reservedBitsSet ∧
    ∃ row ∈ opcodeRows, ∃ row' ∈ opcodeRows, row ≠ row' ∧ row.accepts 0x0000000120000000#64 = true ∧
      row'.accepts 0x0000000120000000#64 = true := by decide
/-- The narrowest misses of R82: RSV bit 8, KIND 5, and SAMPLE 4096. -/
theorem witness_IllFormedWordIsRefused :
    (awaiting [unstamped 0x0000000020000100#64]).arrivals = [⟨none, .word 0x0000000020000100#64⟩] ∧
    ¬ WordWellFormed 0x0000000020000100#64 ∧ ¬ WordWellFormed 0x00000000A0000000#64 ∧
    ¬ WordWellFormed 0x0000100060000000#64 ∧ WordWellFormed 0x00000FFF60000000#64 := by
  refine ⟨rfl, ?_, ?_, ?_, ?_⟩ <;> (unfold WordWellFormed; decide)
theorem witness_IllFormedWordIsRefused_bus :
    (busAt 0 16 none).addr = Config.base + 0 ∧ (busAt 0 16 none).width ≠ 32 ∧
    (busAt 2 32 none).addr = Config.base + 2 ∧ 2 % 4 ≠ 0 := ⟨rfl, by decide, rfl, by decide⟩
theorem witness_NarrowOrMisalignedAccessIsRefused :
    (awaiting [⟨none, .bus (busAt 0xFF 8 none)⟩]).arrivals = [⟨none, .bus (busAt 0xFF 8 none)⟩] ∧
    (busAt 0xFF 8 none).addr = Config.base + 0xFF ∧ (0xFF : Nat) < 256 ∧ (busAt 0xFF 8 none).width = 8 ∧
    (busAt 0 16 none).width = 16 ∧ 0xFE % 4 ≠ 0 := ⟨rfl, rfl, by decide, rfl, rfl, by decide⟩
theorem witness_AlignedWordAccessIsItsEvent_stamped :
    (awaiting [⟨some 7, .bus (busAt 0 32 none)⟩]).arrivals = ⟨some 7, .bus (busAt 0 32 none)⟩ :: [] ∧
    (busAt 0 32 none).addr = Config.base + 0 ∧ cycleEnds 7 [] ∧
    notBefore 7 (awaiting [⟨some 7, .bus (busAt 0 32 none)⟩]) :=
  ⟨rfl, rfl, by simp [cycleEnds], by simp [notBefore, awaiting, State.reset]⟩
theorem witness_AlignedWordAccessIsItsEvent :
    (awaiting [⟨none, .bus (busAt 0xFC 32 (some 1#32))⟩]).arrivals = [⟨none, .bus (busAt 0xFC 32 (some 1#32))⟩] ∧
    (busAt 0xFC 32 (some 1#32)).addr = Config.base + 0xFC ∧ (0xFC : Nat) < 256 ∧ 0xFC % 4 = 0 ∧
    (busAt 0xFC 32 (some 1#32)).write = some 1#32 ∧ (busAt 0 32 none).write = none ∧ (busAt 0 32 none).width = 32 :=
  ⟨rfl, rfl, by decide, by decide, rfl, rfl, rfl⟩
/-- The offsets where the clauses meet: 0x3C is reserved, 0x40 and 0x5C are read-only, 0x60 is reserved again. -/
theorem witness_EventDecodesByKindAndOffset :
    (0x40#8).toNat % 4 = 0 ∧ 0x40 ≤ (0x40#8).toNat ∧ (0x5C#8).toNat ≤ 0x5C ∧ (0x3C#8).toNat % 4 = 0 ∧
    0x60 ≤ (0x60#8).toNat ∧ 0x60 ≤ (0xFC#8).toNat ∧ (0x08#8).toNat % 4 = 0 ∧ (0x34#8).toNat % 4 = 0 := by decide
theorem witness_StepRunsTheDecodedEvent_unstamped :
    (awaiting [unstamped 0x0000000040000000#64]).arrivals = [⟨none, .word 0x0000000040000000#64⟩] ∧
    decode 0x0000000040000000#64 = .ok .trig := by decide
theorem witness_StepRunsTheDecodedEvent_stamped :
    (awaiting [atSeven 0x0000000040000000#64]).arrivals = ⟨some 7, .word 0x0000000040000000#64⟩ :: [] ∧
    cycleEnds 7 [] ∧ cycleEnds 7 [unstamped 0x0000000080000000#64] ∧
    notBefore 7 (awaiting [atSeven 0x0000000040000000#64]) ∧ notBefore 7 (busyAt 7) := by
  refine ⟨rfl, by simp [cycleEnds], ?_, by simp [notBefore, awaiting, State.reset], ?_⟩
  · simp [cycleEnds, unstamped]
  · simp [notBefore, busyAt]
theorem witness_StepRunsTheDecodedEvent_placed :
    decodeTableWord 64 0x0000000080000000 = some .reset ∧ State.reset.arrivals = [] := by decide
/-- A TRIG, SAMPLE 5, RD U0 and a RESET of cycle 7. -/
def trigAt7 : Arrival := atSeven 0x0000000040000000#64
def sampleAt7 : Arrival := atSeven 0x0000000560000000#64
def readAt7 : Arrival := atSeven 0x0000000000000050#64
def resetAt7 : Arrival := atSeven 0x0000000080000000#64

theorem eventsOf_seven : eventsOf 7 [trigAt7, sampleAt7, readAt7] ∧ eventsOf 7 [readAt7, trigAt7] ∧
    eventsOf 7 [trigAt7, resetAt7] := by
  have ht : inputInstr trigAt7.input = .ok .trig := by decide
  have hs : inputInstr sampleAt7.input = .ok (.sample 5#12) := by decide
  have hr : inputInstr readAt7.input = .ok (.rd (.data .u0)) := by decide
  have hx : inputInstr resetAt7.input = .ok .reset := by decide
  refine ⟨?_, ?_, ?_⟩ <;> intro a ha <;> simp only [List.mem_cons, List.not_mem_nil, or_false] at ha
  · rcases ha with rfl | rfl | rfl
    · exact ⟨rfl, _, ht⟩
    · exact ⟨rfl, _, hs⟩
    · exact ⟨rfl, _, hr⟩
  · rcases ha with rfl | rfl
    · exact ⟨rfl, _, hr⟩
    · exact ⟨rfl, _, ht⟩
  · rcases ha with rfl | rfl
    · exact ⟨rfl, _, ht⟩
    · exact ⟨rfl, _, hx⟩

/-- V-F70-9: a RESET in one cycle with another event. -/
theorem witness_SameCycleEventsAreOrdered_reset :
    cycleEnds 7 [unstamped 0x0000000080000000#64] ∧ notBefore 7 State.reset ∧ eventsOf 7 [trigAt7, resetAt7] ∧
    ∃ a ∈ [trigAt7, resetAt7], inputInstr a.input = .ok .reset :=
  ⟨by simp [cycleEnds, unstamped], by simp [notBefore, State.reset], eventsOf_seven.2.2, by decide⟩
/-- V-F70-8 with a SAMPLE between: a read in one cycle with a TRIG that stands first. -/
theorem witness_SameCycleEventsAreOrdered_access :
    cycleEnds 7 [] ∧ notBefore 7 ready1 ∧ eventsOf 7 (trigAt7 :: ([sampleAt7] ++ readAt7 :: [])) ∧
    (∀ a ∈ trigAt7 :: ([sampleAt7] ++ readAt7 :: []), inputInstr a.input ≠ .ok .reset) ∧
    inputInstr trigAt7.input = .ok .trig ∧ (∀ a ∈ [sampleAt7], spells isBusEvent a = false) ∧
    inputInstr readAt7.input = .ok (.rd (.data .u0)) ∧ isBusEvent (.rd (.data .u0)) = true :=
  ⟨by simp [cycleEnds], by simp [notBefore, ready1, ready, State.reset], eventsOf_seven.1, by decide, by decide,
    by decide, by decide, by decide⟩
/-- The access listed first, and a TRIG behind it. -/
theorem witness_SameCycleEventsAreOrdered_first :
    eventsOf 7 [readAt7, trigAt7] ∧ (∀ a ∈ [readAt7, trigAt7], inputInstr a.input ≠ .ok .reset) ∧
    inputInstr readAt7.input = .ok (.rd (.data .u0)) ∧ Instr.rd (.data .u0) ≠ .trig :=
  ⟨eventsOf_seven.2.1, by decide, by decide, by decide⟩
/-- V-F70-8: the read that shares the TRIG's cycle returns the value before the tick. -/
theorem test_read_goes_before_the_tick :
    ∃ t : State, step { ready1 with arrivals := [trigAt7, readAt7] } = .next t ∧ t.rdata = 0#32 ∧ t.doneCount = 0 ∧
      t.arrivals = [trigAt7] := ⟨_, rfl, rfl, rfl, rfl⟩
theorem witness_EventIndexCountsEvents :
    ∃ t : State, step (awaiting [unstamped 0x0000000080000000#64]) = .next t ∧ t.eventIndex = 1 ∧
      (unstamped 0x0000000080000000#64).stamp = none := ⟨_, rfl, rfl, rfl⟩
theorem witness_EventsLeaveTheirSurroundings :
    (∃ t : State, exec .trig ready1 = .next t) ∧ (∀ v : Sample, Instr.trig ≠ .sample v) ∧
    (∀ slot : Slot, Instr.trig ≠ .rd slot) ∧ (∃ t : State, exec .reset ready1 = .next t) ∧
    (∀ slot : Slot, Instr.reset ≠ .rd slot) ∧ Instr.reset ≠ .step ∧ Instr.reset ≠ .trig ∧
    ∃ t : State, exec (.rd (.data .b1)) { State.reset with unwrittenRead := some .b0 } = .next t ∧
      t.unwrittenRead = some .b0 :=
  ⟨⟨_, rfl⟩, by simp, by simp, ⟨_, rfl⟩, by simp, by decide, by decide, ⟨_, rfl, rfl⟩⟩
theorem witness_WrapIsTheUniqueResidue : InWord (-(2 ^ 31)) ∧ (2 ^ 32 : Int) ∣ 2 ^ 31 - -(2 ^ 31) := by
  unfold InWord; decide
theorem witness_ShiftIsFloorDivision : (31 : Nat) < 32 ∧ (0 : Nat) < 32 := by decide
theorem witness_ConversionTruncatesTowardZero : (0 : Rat) ≤ 0 ∧ (-1 / 2 : Rat) < 0 := by norm_num
theorem quantized_examples :
    quantize exactInputs = .ok exactWords ∧ (∀ r ∈ configRegs, InWord (quantizedValue exactInputs r)) ∧
    quantizedValue { exactInputs with rawB0 := 4096 } .b0 = 2 ^ 31 ∧
    quantize { exactInputs with rawB0 := 4096 } = .error (.quantizerOverflow .b0 (2 ^ 31)) := by
  unfold InWord; decide +kernel

/-- V-F41-6: 4096 · 2^19 = 2^31 does not fit. -/
theorem witness_QuantizedWordsHoldTheirValues :
    quantize exactInputs = .ok exactWords ∧ (∀ r ∈ configRegs, InWord (quantizedValue exactInputs r)) ∧
    quantizedValue { exactInputs with rawB0 := 4096 } .b0 = 2 ^ 31 ∧
    ¬ InWord (2 ^ 31) :=
  ⟨quantized_examples.1, quantized_examples.2.1, quantized_examples.2.2.1, by unfold InWord; decide⟩
theorem witness_ReadReturnsTheRegister :
    stepInProgress ready1 = false ∧ isReservedOffset 0x60#8 = true ∧ isReservedOffset 0x0C#8 = true ∧
    ready1.written.get .u2 = true ∧ ready1.written.get .lastOut = false := by decide
theorem witness_StatusReadsItsFields : stepInProgress errored = false ∧ errored.mode = .initialized := by decide
theorem witness_ReadHasNoSideEffect :
    (∃ t : State, exec (.rd (.data .u0)) ready1 = .next t) ∧ stepInProgress ready1 = false ∧
    ∃ t : State, exec (.rd (.data .u0)) (busyAt 10) = .next t := by
  refine ⟨⟨_, rfl⟩, by decide, ?_⟩
  simp [exec, execRd, busy_at_start]
theorem witness_WindowIsLittleEndian :
    (Slot.data .upperNeg).wellFormed = true ∧ readSlot (.data .upperNeg) ready1 = 0xFFFF0200#32 ∧
    (Slot.reserved 0xFC#8).wellFormed = true ∧ readSlot (.reserved 0xFC#8) ready1 = 0#32 := by decide
theorem witness_StatusWriteClearsTheError :
    stepInProgress errored = false ∧ (2#32).getLsbD 1 = true ∧ (0xFFFFFFFD#32).getLsbD 1 = false := by decide
theorem witness_ReservedCommandIsReported :
    (0#32 ≠ 1#32 ∧ 0#32 ≠ 2#32) ∧ (3#32 ≠ 1#32 ∧ 3#32 ≠ 2#32) ∧ stepInProgress ready1 = false ∧ ready1.err = false ∧
    errored.err = true := by decide
theorem witness_ReadOnlyWriteIsReported :
    Slot.shifts.isReadOnly = true ∧ (Slot.data .lastOut).isReadOnly = true ∧ isReservedOffset 0x3C#8 = true ∧
    isReservedOffset 0xFC#8 = true ∧ stepInProgress ready1 = false := by decide
theorem witness_ErrorsHaveExactlyThreeCauses :
    ready1.err = false ∧ (Instr.wrRsvd 0xFC#8 0#32).wellFormed = true ∧ stepInProgress ready1 = false ∧
    ready1.mode = .initialized ∧
    (∃ t : State, exec (.cmdRsvd 0#32) ready1 = .next t ∧ t.err = true ∧ t.errc = 1#4) ∧
    (∃ t : State, exec (.wrRsvd 0xFC#8 0#32) ready1 = .next t ∧ t.err = true ∧ t.errc = 2#4) ∧
    ∃ t : State, exec (.wrLower 0#32) ready1 = .next t ∧ t.err = true ∧ t.errc = 3#4 :=
  ⟨rfl, rfl, rfl, rfl, ⟨_, rfl, rfl, rfl⟩, ⟨_, rfl, rfl, rfl⟩, ⟨_, rfl, rfl, rfl⟩⟩
theorem witness_FirstErrorCauseIsKept :
    errored.err = true ∧ (∃ t : State, exec (.wrRo .shifts 0#32) errored = .next t ∧ t.errc = 1#4) ∧
    ∃ t : State, exec (.wrStatus 2#32) errored = .next t ∧ t.err = false := ⟨rfl, ⟨_, rfl, rfl⟩, ⟨_, rfl, rfl⟩⟩
theorem witness_SampleDrivesThePort :
    State.reset.fbDriven = false ∧ ∃ t : State, exec (.sample 4095#12) State.reset = .next t := ⟨rfl, ⟨_, rfl⟩⟩
theorem witness_ConfigurationWriteLoadsOrIsLocked :
    DataReg.lower.isConfig = true ∧ stepInProgress State.reset = false ∧ State.reset.mode = .uninit ∧
    stepInProgress ready1 = false ∧ ready1.mode = .initialized := by decide
theorem witness_InitCommitsTheConfiguration :
    (stepInProgress (configured 0#32) = false ∧ ∀ r ∈ configRegs, (configured 0#32).written.get r = true) ∧
    stepInProgress State.reset = false ∧ firstUnwritten State.reset configRegs = some .b0 := by decide
/-- The first and the last register of R118's order. -/
theorem witness_InitNeedsTheWholeConfiguration :
    stepInProgress State.reset = false ∧ State.reset.written.get .b0 = false ∧
    ([.b0, .b1, .b2, .b3, .a1, .a2, .a3, .ref, .upper, .lower] : List DataReg) =
      [.b0, .b1, .b2, .b3, .a1, .a2, .a3, .ref, .upper] ++ .lower :: [] ∧
    (∀ q ∈ [DataReg.b0, .b1, .b2, .b3, .a1, .a2, .a3, .ref, .upper],
      ((configured 0#32).written.set .lower false).get q = true) ∧
    ((configured 0#32).written.set .lower false).get .lower = false := by decide
theorem witness_ConfigurationOrderIsIrrelevant :
    stepInProgress State.reset = false ∧ State.reset.mode = .uninit ∧
    stepInProgress { configured 1#32 with now := some 3 } = false ∧ (configured 1#32).mode = .uninit ∧
    (configEvents exactWords).reverse.Perm (configEvents exactWords) :=
  ⟨rfl, rfl, rfl, rfl, List.reverse_perm _⟩
theorem witness_StepBeforeInitFaults : stepInProgress (configured 0#32) = false ∧ (configured 0#32).mode = .uninit := by
  decide
theorem witness_StepPerformsOneTick :
    stepInProgress ready1 = false ∧ ready1.mode = .initialized ∧ StepInputsHeld ready1 ∧ ready1.fbDriven = true := by
  unfold StepInputsHeld; decide
theorem witness_TickValueIsIndependentOfTermOrder :
    [(3 : Int), 2, 1].Perm [1, 2, 3] ∧ [(4 : Int), 3, 2, 1].Perm [1, 2, 3, 4] := by decide
theorem witness_NewErrorStaysInRange :
    0 ≤ s32 ((smallFile 0#32 4095#32 0#32 0#32).get .ref) ∧ s32 ((smallFile 0#32 4095#32 0#32 0#32).get .ref) ≤ 2 ^ 12 - 1 ∧
    0 ≤ s32 ((smallFile 0#32 0#32 0#32 0#32).get .ref) := by decide
/-- V-F43-2, V-F43-3, and a value between the bounds; R160 with LOWER above and at the output. -/
theorem witness_SaturationUnitClampsAndExtracts :
    InWord 256000 ∧ 256000 > s32 (file1.get .upper) ∧ InWord (-256000) ∧ ¬ -256000 > s32 (file1.get .upper) ∧
    -256000 < s32 (file1.get .upperNeg) ∧ ¬ 65024 > s32 (file1.get .upper) ∧ ¬ 65024 < s32 (file1.get .upperNeg) ∧
    asr (s32 ((saturate (-256000) file1).get .u0)) 8 < s32 (file1.get .lower) ∧
    ¬ asr (s32 ((saturate 0 file1).get .u0)) 8 < s32 (file1.get .lower) := by unfold InWord; decide
/-- R165's examples: a LOWER above the shifted upper bound, and U0 = −1 with LOWER = 0. -/
theorem witness_AsymmetricClampBoundsTheOutputs :
    s32 (file1.get .upperNeg) ≤ s32 (file1.get .upper) ∧
    s32 ((filterStep 0#12 { file1 with lower := 300#32 }).get .lastOut) > asr (s32 (file1.get .upper)) 8 ∧
    s32 ((filterStep 1#12 (smallFile 1000#32 0#32 65024#32 0xFFFF0200#32)).get .u0) = -1 ∧
    (smallFile 1000#32 0#32 65024#32 0xFFFF0200#32).get .lower = 0#32 := by decide
theorem witness_TicksFollowTheClosedForm :
    [0#12, 0#12, 0#12] ≠ [] ∧ (ready feedbackFile 0#12).now = none ∧ (ready feedbackFile 0#12).mode = .initialized ∧
    (∀ r ∈ historyRegs, (ready feedbackFile 0#12).regs.get r = 0#32) ∧
    NoWrap (ready feedbackFile 0#12).regs (errorsOf ((ready feedbackFile 0#12).regs.get .ref) [0#12, 0#12, 0#12]) := by
  refine ⟨by decide, rfl, rfl, by decide, ?_⟩
  refine ⟨?_, ?_, ?_, ?_, ?_, ?_, ?_, ?_, ?_, trivial⟩ <;> (unfold InWord; decide)
theorem witness_StepDependsOnItsInputsAlone :
    (∃ t : State, exec .step ready1 = .next t) ∧ (∃ t : State, exec .step errored = .next t) ∧
    captureFb ready1 = captureFb errored ∧ ∀ r ∈ stepReads, ready1.regs.get r = errored.regs.get r :=
  ⟨⟨_, rfl⟩, ⟨_, rfl⟩, by decide, by decide⟩
/-- Two histories over one configuration. -/
theorem witness_InitForgetsTheHistory :
    [4095#12] ≠ [] ∧ (∀ r ∈ configRegs, ready1.regs.get r =
      (ready { file1 with e0 := 9#32, u2 := 5#32 } 3#12).regs.get r) ∧
    (∃ t : State, execAll (.init :: ticks [4095#12]) ready1 = .next t) ∧
    ∃ t : State, execAll (.init :: ticks [4095#12]) (ready { file1 with e0 := 9#32, u2 := 5#32 } 3#12) = .next t :=
  ⟨by decide, by decide, ⟨_, rfl⟩, ⟨_, rfl⟩⟩
theorem witness_ResetClearsTheBlock : stepInProgress ready1 = false ∧ stepInProgress (busyAt 10) = true :=
  ⟨by decide, busy_at_start⟩
theorem witness_PowerOnIsEquivalentToReset : ∃ t : State, exec .reset errored = .next t := ⟨_, rfl⟩
theorem witness_ModeChangesOnlyByInitAndReset :
    (∃ t : State, exec .reset ready1 = .next t) ∧ (∃ t : State, exec .init (configured 0#32) = .next t) ∧
    (∃ t : State, exec .step ready1 = .next t) ∧ Instr.step ≠ .reset ∧ Instr.step ≠ .init ∧ State.reset.mode = .uninit :=
  ⟨⟨_, rfl⟩, ⟨_, rfl⟩, ⟨_, rfl⟩, by decide, by decide, rfl⟩
theorem witness_ConfigurationIsImmutable :
    UpperNegFormed { ready1 with arrivals := [unstamped 0x0000000120000000#64] } ∧
    ∃ t : State, step { ready1 with arrivals := [unstamped 0x0000000120000000#64] } = .next t ∧
      t.mode = .initialized := ⟨fun _ => by decide, ⟨_, rfl, rfl⟩⟩
theorem witness_HistoryMovesOnlyByInitAndStep :
    (∃ t : State, exec .init ready1 = .next t) ∧ (∃ t : State, exec .trig ready1 = .next t) ∧
    (∃ t : State, exec (.wrRo (.data .e0) 5#32) ready1 = .next t) ∧ Instr.trig ≠ .reset :=
  ⟨⟨_, rfl⟩, ⟨_, rfl⟩, ⟨_, rfl⟩, by decide⟩
theorem witness_EveryStepKeepsTheInvariant :
    Inv { ready1 with arrivals := [unstamped 0x0000000040000000#64] } ∧
    ∃ t : State, step { ready1 with arrivals := [unstamped 0x0000000040000000#64] } = .next t ∧ t.doneCount = 1 :=
  ⟨{ inv_ready1 with }, ⟨_, rfl, rfl⟩⟩
theorem witness_InitializedTickAlwaysCompletes :
    Inv ready1 ∧ stepInProgress ready1 = false ∧ ready1.mode = .initialized := ⟨inv_ready1, by decide, rfl⟩
theorem witness_FaultsAreExactlyTheNamedOnes :
    exec .trig (busyAt 10) = .fault .overlap ∧ exec .step State.reset = .fault .stepBeforeInit ∧
    exec .init State.reset = .fault (.initUnconfigured .b0) ∧
    (Inv ready1 ∧ ready1.unwrittenRead = none ∧ stepInProgress ready1 = false ∧ ready1.written.get .lastOut = false ∧
      ∃ t : State, exec (.rd (.data .lastOut)) ready1 = .next t ∧ t.unwrittenRead = some .lastOut) := by
  refine ⟨?_, rfl, rfl, inv_ready1, rfl, by decide, rfl, _, rfl, rfl⟩
  simp [exec, execTrig, whenIdle, busy_at_start]
/-- The first cycle of the window and the first after it. -/
theorem witness_StepWindowIsExclusive :
    (busyAt 10).now = some 10 ∧ (busyAt 10).stepStart = some 10 ∧ 10 < 10 + Config.stepCycles ∧
    (busyAt freeCycle).now = some freeCycle ∧ (busyAt freeCycle).stepStart = some 10 ∧
    10 + Config.stepCycles ≤ freeCycle ∧ isBusWrite .init = true ∧ ∃ t : State, exec .step ready1 = .next t :=
  ⟨rfl, rfl, by simp [Config.stepCycles], rfl, rfl, Nat.le_refl _, rfl, ⟨_, rfl⟩⟩
theorem witness_UnstampedEventNeverOverlaps :
    ({ busyAt 10 with arrivals := [unstamped 0x0000000040000000#64] } : State).arrivals =
      [unstamped 0x0000000040000000#64] ∧ (unstamped 0x0000000040000000#64).stamp = none := ⟨rfl, rfl⟩
theorem witness_ReferenceFollowsItsRecurrence : [(84 : Int), 68] ≠ [] := by decide
theorem exact_inputs_quantize : ExactlyQuantized exactInputs exactWords ∧
    (exactRefRun ([0#12].map (fun v => (v.toNat : Int))) (refInit exactInputs)).fLast = some 12 := by
  unfold ExactlyQuantized; decide +kernel
theorem witness_CrossBackendOutputsDifferByAtMostOne :
    ExactlyQuantized exactInputs exactWords ∧
    (∃ t : State, execAll (configEvents exactWords ++ [.init] ++ ticks [0#12]) State.reset = .next t ∧
      NoWrap t.regs (errorsOf exactWords.ref [0#12])) ∧
    (exactRefRun ([0#12].map (fun v => (v.toNat : Int))) (refInit exactInputs)).fLast = some 12 := by
  refine ⟨exact_inputs_quantize.1, ⟨_, rfl, ?_, ?_, ?_, trivial⟩, exact_inputs_quantize.2⟩ <;> (unfold InWord; decide)
theorem witness_LinesAssembleToTheirEvents :
    ((['C', 'M', 'D'], 0x00#8) : List Char × Offset) ∈ registerNames ∧
    ((['L', 'A', 'S', 'T', '_', 'O', 'U', 'T'], 0x5C#8) : List Char × Offset) ∈ registerNames ∧
    parseValue ['0', 'x', 'F', 'F', 'F'] = some 4095 ∧ parseValue ['4', '0', '9', '6'] = some 4096 ∧
    parseValue ['-', '1'] = some (-1) ∧ (Slot.data .e3).wellFormed = true ∧
    digitValue 'f' = some 15 ∧ digitValue '0' = some 0 ∧ digitValue 'C' = some 12 := by decide
theorem witness_LinesAssembleToTheirEvents_line :
    (∀ f ∈ [['R', 'D'], ['@', '0', 'x', 'F', 'c']], f ≠ [] ∧ ∀ c ∈ f, c ∉ separators ∧ c ≠ ';') ∧
    [' ', ','] ≠ [] ∧ ∀ c ∈ [' ', ','], c ∈ separators := by simp [separators]
theorem witness_PseudoInstructionsExpand :
    parseValue ['4', '0', '9', '5'] = some ((4095#12 : Sample).toNat : Int) ∧ parseWord ['-', '1'] = some 0xFFFFFFFF#32 ∧
    parseWord ['0'] = some 0#32 ∧ quantize exactInputs = .ok exactWords ∧
    quantize { exactInputs with rawB0 := 4096 } = .error (.quantizerOverflow .b0 (2 ^ 31)) :=
  ⟨by decide, by decide, by decide, quantized_examples.1, quantized_examples.2.2.2⟩
theorem witness_TickValuesFitTheirFormats :
    accFormat .feedBack = some ⟨32, 22⟩ ∧ accFormat .feedForward = some ⟨32, 19⟩ ∧ accFormat .afterShiftB = some ⟨21, 8⟩ := by
  decide

end Sys2Proof.Machine.Tests
end

namespace Sys2Proof.Machine

/-! ## Arithmetic and conversions (R6, R9, R10, R104) -/

/-- A residue class modulo 2^32 holds at most one 32-bit value (R6). -/
theorem inWord_eq_of_dvd_sub {a b : Int} (ha : InWord a) (hb : InWord b) (h : (2 ^ 32 : Int) ∣ a - b) : a = b := by
  unfold InWord at ha hb
  omega

/-- The integer quotient of `asr` is the floor of the rational one (R9). -/
theorem asr_eq_floor (v : Int) (s : Nat) : asr v s = ⌊(v : ℚ) / 2 ^ s⌋ := by
  have h := Rat.floor_intCast_div_natCast v (2 ^ s)
  push_cast at h
  exact h.symm

theorem truncRat_of_nonneg {x : Rat} (h : 0 ≤ x) : truncRat x = ⌊x⌋ := if_pos h

theorem truncRat_of_neg {x : Rat} (h : x < 0) : truncRat x = ⌈x⌉ := by
  rw [truncRat, if_neg (not_le.mpr h)]
  exact Rat.ceil_eq_neg_floor_neg x

/-- Scaling by 2^f keeps the sign, so `fromReal` rounds down on one side of 0 and up on the other (R104). -/
theorem fromReal_of_nonneg {x : Rat} (h : 0 ≤ x) (f : Nat) : fromReal x f = ⌊x * 2 ^ f⌋ :=
  truncRat_of_nonneg (by positivity)

theorem fromReal_of_neg {x : Rat} (h : x < 0) (f : Nat) : fromReal x f = ⌈x * 2 ^ f⌉ :=
  truncRat_of_neg (mul_neg_of_neg_of_pos h (by positivity))

/-! ## What a bus access spells (R12, R62, R63, R83) -/

/-- A read word spells the RD of the slot at its offset (R83). -/
theorem decode_readWord {off : Offset} {slot : Slot} (h : slotAt off = some slot) :
    decode (readWord off) = .ok (.rd slot) := by
  simp [readWord, decode_eventWord, decodeFields, h]

/-- A write word spells the write to the slot at its offset (R83). -/
theorem decode_writeWord {off : Offset} {slot : Slot} (h : slotAt off = some slot) (data : Word) :
    decode (writeWord off data) = .ok (decodeWrite slot data) := by
  simp [writeWord, decode_eventWord, decodeFields, h]

/-- Every host write is a bus event (R41, R83). -/
theorem isBusEvent_decodeWrite (slot : Slot) (data : Word) : isBusEvent (decodeWrite slot data) = true := by
  cases slot with
  | cmd =>
    unfold decodeWrite decodeCommand
    split_ifs <;> rfl
  | data r => cases r <;> rfl
  | status => rfl
  | shifts => rfl
  | reserved off => rfl

/-- A slot stands at every aligned offset of the window (R63). -/
theorem exists_slotAt_of_aligned {off : Nat} (hal : off % 4 = 0) :
    ∃ slot, slotAt (BitVec.ofNat 8 off) = some slot := by
  have hsome : slotAt (BitVec.ofNat 8 off) ≠ none := by
    rw [Ne, slotAt_eq_none_iff, BitVec.toNat_ofNat]
    omega
  exact Option.ne_none_iff_exists'.mp hsome

/-- A 32-bit aligned access of the window has the RD or WR word of its offset (R12, R91). -/
theorem busWord_aligned {off : Nat} (hlt : off < 256) (hal : off % 4 = 0) (write : Option Word) :
    busWord ⟨Config.base + off, 32, write⟩ =
      .ok (write.elim (readWord (BitVec.ofNat 8 off)) (writeWord (BitVec.ofNat 8 off))) := by
  have hlo : ¬ Config.base + off < Config.base := by omega
  have hhi : ¬ Config.base + Config.windowBytes ≤ Config.base + off := by
    unfold Config.windowBytes
    omega
  cases write <;> simp [busWord, hlo, hhi, hal]

/-- An input spells what its word decodes to (R82). -/
theorem inputInstr_of_inputWord {input : Input} {w : EventWord} {i : Instr} (hw : inputWord input = .ok w)
    (hi : decode w = .ok i) : inputInstr input = .ok i := by
  simp [inputInstr, hw, hi]

/-! ## A step with one arrival in hand (R38, R65, R226) -/

/-- An arrival that has its cycle to itself is taken, whatever it spells (R201). -/
theorem arbitrate_singleton (a : Arrival) (later : List Arrival) : arbitrate a [a] later = (a, later) := by
  have found : ∀ {p : Arrival → Bool} {x : Arrival}, [a].find? p = some x → x = a :=
    fun h => List.mem_singleton.mp (List.mem_of_find?_eq_some h)
  unfold arbitrate
  split
  · next h => rw [found h]
  · split
    · next h => rw [found h]
    · split_ifs
      · split
        · next h => simp [found h]
        · rfl
      · rfl

/-- A stamped arrival alone in its cycle is taken, and everything behind it is left (R65). -/
theorem takeNext_alone {t : Nat} {rest : List Arrival} (input : Input) (h : cycleEnds t rest) :
    takeNext (⟨some t, input⟩ :: rest) = some (⟨some t, input⟩, rest) := by
  cases rest with
  | nil => exact congrArg some (arbitrate_singleton _ _)
  | cons b rest =>
    have hb : (b.stamp == some t) = false := by simpa using h b rfl
    simp [takeNext, hb, arbitrate_singleton]

/-- An unstamped arrival that spells an event is performed, from the state as that event meets it (log 8). -/
theorem step_unstamped {s : State} {input : Input} {i : Instr} {rest : List Arrival}
    (hs : s.arrivals = ⟨none, input⟩ :: rest) (hi : inputInstr input = .ok i) :
    step s = exec i (meetsUnstamped rest s) := by
  have ht : takeNext s.arrivals = some (⟨none, input⟩, rest) := by rw [hs]; rfl
  rw [step_of_takeNext ht hi rfl]
  simp [consume, meetsUnstamped, hs]

/-- A stamped arrival, alone in its cycle and in time, is performed from the state as that event meets it. -/
theorem step_stamped {s : State} {t : Nat} {input : Input} {i : Instr} {rest : List Arrival}
    (hs : s.arrivals = ⟨some t, input⟩ :: rest) (hi : inputInstr input = .ok i) (hend : cycleEnds t rest)
    (hnow : notBefore t s) : step s = exec i (meetsStamped t rest s) := by
  have ht : takeNext s.arrivals = some (⟨some t, input⟩, rest) := by rw [hs, takeNext_alone input hend]
  rw [step_of_takeNext ht hi (arrive_stamped hnow)]
  simp [consume, meetsStamped, hs]

/-! ## The obligations -/

/-- Settles O14: existence is `wrap32`'s own laws; two 32-bit values congruent to `v` are congruent to each other. -/
theorem wrapIsTheUniqueResidue : Obligations.WrapIsTheUniqueResidue := by
  intro v
  refine ⟨wrap32_inWord v, wrap32_dvd_sub v, fun w hw hvw => ?_⟩
  have hww : (2 ^ 32 : Int) ∣ w - wrap32 v := by
    simpa using dvd_sub (wrap32_dvd_sub v) hvw
  exact inWord_eq_of_dvd_sub hw (wrap32_inWord v) hww

/-- Settles O15: the general law, and R9's two examples by evaluation. -/
theorem shiftIsFloorDivision : Obligations.ShiftIsFloorDivision :=
  ⟨fun v s _ => asr_eq_floor v s, by decide, by decide⟩

/-- Settles O17: toward zero is the floor of a value that is not negative and the ceiling of a negative one. -/
theorem conversionTruncatesTowardZero : Obligations.ConversionTruncatesTowardZero := by
  intro x f
  constructor
  · intro h
    rw [fromReal_of_nonneg h]
    exact ⟨Int.floor_nonneg.mpr (by positivity), Int.floor_le _, Int.lt_floor_add_one _⟩
  · intro h
    have hneg : x * 2 ^ f < 0 := mul_neg_of_neg_of_pos h (by positivity)
    rw [fromReal_of_neg h]
    refine ⟨Int.ceil_le.mpr (by simpa using hneg.le), ?_, Int.le_ceil _⟩
    linarith [Int.ceil_lt_add_one (x * 2 ^ f)]

/-- Settles O7: the slot at the offset gives the event, for a read and for a write; the step rules perform it. -/
theorem alignedWordAccessIsItsEvent : Obligations.AlignedWordAccessIsItsEvent := by
  rintro ⟨addr, width, write⟩ off rfl hlt hal rfl
  obtain ⟨slot, hslot⟩ := exists_slotAt_of_aligned hal
  have hword := busWord_aligned hlt hal write
  cases write with
  | none =>
    have hdec := decode_readWord hslot
    have hinstr := inputInstr_of_inputWord (input := .bus _) hword hdec
    exact ⟨.rd slot, rfl, fun _ => hdec, by simp, fun _ _ hs => step_unstamped hs hinstr,
      fun _ _ _ hs => step_stamped hs hinstr⟩
  | some data =>
    have hdec := decode_writeWord hslot data
    have hinstr := inputInstr_of_inputWord (input := .bus _) hword hdec
    exact ⟨decodeWrite slot data, isBusEvent_decodeWrite slot data, by simp, by rintro _ ⟨⟩; exact hdec,
      fun _ _ hs => step_unstamped hs hinstr, fun _ _ _ hs => step_stamped hs hinstr⟩

end Sys2Proof.Machine

namespace Sys2Proof.Machine

/-! ## What an event keeps, by the class of the event (R36, R42, R43) -/

/-- The block of `t` is that of `s`, but for STATUS.ERR and ERRC, the FB port, the transcript and the model's records of
reads and draws; no STEP window opens. -/
structure SameBlock (s t : State) : Prop where
  mode : t.mode = s.mode
  regs : t.regs = s.regs
  written : t.written = s.written
  actOut : t.actOut = s.actOut
  dutyQ8 : t.dutyQ8 = s.dutyQ8
  actOutWritten : t.actOutWritten = s.actOutWritten
  dutyQ8Written : t.dutyQ8Written = s.dutyQ8Written
  doneCount : t.doneCount = s.doneCount
  stepStart : t.stepStart ≠ none → s.stepStart ≠ none

theorem SameBlock.of_respond_noteReads (w : Word) (rs : List DataReg) (s : State) :
    SameBlock s (respond w (noteReads rs s)) := ⟨rfl, rfl, rfl, rfl, rfl, rfl, rfl, rfl, id⟩

theorem SameBlock.of_respond_countDraw (w : Word) (s : State) : SameBlock s (respond w (countDraw s)) :=
  ⟨rfl, rfl, rfl, rfl, rfl, rfl, rfl, rfl, id⟩

theorem SameBlock.of_driveFb (v : Sample) (s : State) : SameBlock s (driveFb v s) :=
  ⟨rfl, rfl, rfl, rfl, rfl, rfl, rfl, rfl, id⟩

theorem SameBlock.of_clearErr (s : State) : SameBlock s (clearErr s) := ⟨rfl, rfl, rfl, rfl, rfl, rfl, rfl, rfl, id⟩

theorem SameBlock.of_setErr (code : BitVec 4) (s : State) : SameBlock s (setErr code s) := by
  constructor <;> simp

theorem SameBlock.of_consume (rest : List Arrival) (s : State) : SameBlock s (consume rest s) :=
  ⟨rfl, rfl, rfl, rfl, rfl, rfl, rfl, rfl, id⟩

/-- An arrival leaves an open STEP window open or closes it (R226 item 3). -/
theorem SameBlock.of_arrive {stamp : Option Nat} {s s0 : State} (h : arrive stamp s = .ok s0) : SameBlock s s0 := by
  obtain rfl := arrive_ok h
  refine ⟨rfl, rfl, rfl, rfl, rfl, rfl, rfl, rfl, fun ho => ?_⟩
  dsimp only at ho
  split_ifs at ho
  · exact absurd rfl ho
  · exact ho

theorem SameBlock.refl (s : State) : SameBlock s s := ⟨rfl, rfl, rfl, rfl, rfl, rfl, rfl, rfl, id⟩

theorem SameBlock.trans {s t u : State} (h : SameBlock s t) (k : SameBlock t u) : SameBlock s u :=
  ⟨k.mode.trans h.mode, k.regs.trans h.regs, k.written.trans h.written, k.actOut.trans h.actOut,
    k.dutyQ8.trans h.dutyQ8, k.actOutWritten.trans h.actOutWritten, k.dutyQ8Written.trans h.dutyQ8Written,
    k.doneCount.trans h.doneCount, fun ho => h.stepStart (k.stepStart ho)⟩

/-- What can become of STATUS.ERR and ERRC where no RESET intervenes: nothing, both cleared, or ERR set with a
code of R200. -/
def StatusMoves (s t : State) : Prop :=
  (t.err = s.err ∧ t.errc = s.errc) ∨ (t.err = false ∧ t.errc = 0#4) ∨
  (t.err = true ∧ (t.errc = errReservedCommand ∨ t.errc = errReadOnly ∨ t.errc = errLocked))

theorem StatusMoves.of_setErr {code : BitVec 4} (s : State)
    (h : code = errReservedCommand ∨ code = errReadOnly ∨ code = errLocked) : StatusMoves s (setErr code s) := by
  cases he : s.err with
  | true => exact .inl ⟨by simp [he], by simp [he]⟩
  | false => exact .inr (.inr ⟨setErr_err s code, by simpa [he] using h⟩)

/-- A configuration write loads a register in UNINIT and reports an error in INITIALIZED (R111). -/
theorem writeConfig_cases (r : DataReg) (data : Word) (s : State) :
    (s.mode = .uninit ∧ writeConfig r data s = writeReg r data s) ∨
    (s.mode = .initialized ∧ writeConfig r data s = setErr errLocked s) := by
  cases hm : s.mode with
  | uninit => exact .inl ⟨rfl, writeConfig_uninit hm r data⟩
  | initialized => exact .inr ⟨rfl, writeConfig_initialized hm r data⟩

/-- The five classes of completed events: RESET, INIT, a tick, a configuration write that loads its register, and the
events that leave the block as it is but for STATUS. -/
theorem exec_classes {i : Instr} {s t : State} (h : exec i s = .next t) :
    (i = .reset ∧ execReset s = .next t) ∨
    (i = .init ∧ (∀ r ∈ configRegs, s.written.get r = true) ∧ t = commitInit s) ∨
    ((i = .step ∨ i = .trig) ∧ s.mode = .initialized ∧ t = tick s) ∨
    (∃ r data, r.isConfig = true ∧ s.mode = .uninit ∧ t = writeReg r data s) ∨
    (SameBlock s t ∧ StatusMoves s t) := by
  rcases exec_next h with ⟨slot, -, -, rfl⟩ | ⟨slot, -, -, rfl⟩ | ⟨hi, -, hr, ht⟩ | ⟨hi, -, hm, ht⟩ | ⟨data, -, -, rfl⟩ |
    ⟨data, -, -, rfl⟩ | ⟨r, data, hr, -, -, rfl⟩ | ⟨-, -, rfl⟩ | ⟨v, -, rfl⟩ | hreset
  · exact .inr (.inr (.inr (.inr ⟨.of_respond_noteReads _ _ s, .inl ⟨rfl, rfl⟩⟩)))
  · exact .inr (.inr (.inr (.inr ⟨.of_respond_countDraw _ s, .inl ⟨rfl, rfl⟩⟩)))
  · exact .inr (.inl ⟨hi, hr, ht⟩)
  · exact .inr (.inr (.inl ⟨hi, hm, ht⟩))
  · exact .inr (.inr (.inr (.inr ⟨.of_setErr _ s, .of_setErr s (.inl rfl)⟩)))
  · split_ifs
    · exact .inr (.inr (.inr (.inr ⟨.of_clearErr s, .inr (.inl ⟨rfl, rfl⟩)⟩)))
    · exact .inr (.inr (.inr (.inr ⟨.refl s, .inl ⟨rfl, rfl⟩⟩)))
  · obtain ⟨hm, hw⟩ | ⟨-, hw⟩ := writeConfig_cases r data s <;> rw [hw]
    · exact .inr (.inr (.inr (.inl ⟨r, data, hr, hm, rfl⟩)))
    · exact .inr (.inr (.inr (.inr ⟨.of_setErr _ s, .of_setErr s (.inr (.inr rfl))⟩)))
  · exact .inr (.inr (.inr (.inr ⟨.of_setErr _ s, .of_setErr s (.inr (.inl rfl))⟩)))
  · exact .inr (.inr (.inr (.inr ⟨.of_driveFb v s, .inl ⟨rfl, rfl⟩⟩)))
  · exact .inl hreset

/-- A completed INIT has committed a whole configuration (R118, R119). -/
theorem exec_init_next {s t : State} (h : exec .init s = .next t) :
    (∀ r ∈ configRegs, s.written.get r = true) ∧ t = commitInit s := (execInit_next h).2

/-- A completed STEP or TRIG is one tick of an INITIALIZED block (R150, R162, R163). -/
theorem exec_tick_next {i : Instr} {s t : State} (hi : i = .step ∨ i = .trig) (h : exec i s = .next t) :
    s.mode = .initialized ∧ t = tick s := by
  have hk : whenIdle s (runStep s) = .next t := by
    rcases hi with rfl | rfl
    · exact h
    · exact h
  exact runStep_next (whenIdle_next hk).2

/-- A completed RESET leaves UNINIT (R220). -/
theorem exec_reset_mode {s t : State} (h : exec .reset s = .next t) : t.mode = .uninit := by
  cases h
  rfl

/-! ## What an event keeps of its surroundings, and how a step is made of one (R38, R65) -/

/-- Settles O13: case by case of `exec_next`, what each event changes. -/
theorem eventsLeaveTheirSurroundings : Obligations.EventsLeaveTheirSurroundings := by
  intro i s t h
  rcases exec_next h with ⟨slot, rfl, -, rfl⟩ | ⟨slot, rfl, -, rfl⟩ | ⟨rfl, -, -, rfl⟩ | ⟨hi, -, -, rfl⟩ |
    ⟨data, rfl, -, rfl⟩ | ⟨data, rfl, -, rfl⟩ | ⟨r, data, -, -, -, rfl⟩ | ⟨-, -, rfl⟩ | ⟨v, rfl, rfl⟩ | ⟨-, hr⟩
  · exact ⟨rfl, rfl, rfl, fun _ => ⟨rfl, rfl⟩, fun hrd => absurd rfl (hrd slot), fun hrd => absurd rfl (hrd slot),
      fun r hr => noteReads_sticky hr _⟩
  · exact ⟨rfl, rfl, rfl, fun _ => ⟨rfl, rfl⟩, fun hrd => absurd rfl (hrd slot), fun _ _ _ => rfl, fun _ hr => hr⟩
  · simp
  · refine ⟨by simp, by simp, by simp, by simp, by simp, fun _ hstep htrig => ?_, fun r hr => by simp [hr]⟩
    exact absurd hi (not_or.mpr ⟨hstep, htrig⟩)
  · simp
  · split_ifs
    · simp
    · simp
  · obtain ⟨-, hw⟩ | ⟨-, hw⟩ := writeConfig_cases r data s
    · simp [hw]
    · simp [hw]
  · simp
  · exact ⟨rfl, rfl, rfl, fun hs => absurd rfl (hs v), fun _ => rfl, fun _ _ _ => rfl, fun _ hr => hr⟩
  · cases hr
    exact ⟨rfl, rfl, rfl, fun _ => ⟨rfl, rfl⟩, fun _ => rfl, fun _ _ _ => rfl, fun _ hr => hr⟩

/-- Only an empty transcript has no next arrival. -/
theorem takeNext_eq_none {as : List Arrival} (h : takeNext as = none) : as = [] := by
  unfold takeNext at h
  split at h
  · rfl
  · split at h
    · cases h
    · cases h

/-- With nothing fetched, nothing is left to arrive. -/
theorem fetch_eq_none {s : State} (h : fetch s = none) : s.arrivals = [] := by
  unfold fetch at h
  split at h
  · next ht => exact takeNext_eq_none ht
  · split at h
    · cases h
    · split at h
      · cases h
      · cases h

/-- A step with a next state holds its state where nothing is left to arrive, and otherwise performs the event of the
arrival it takes (R65, R209). -/
theorem step_next {s t : State} (h : step s = .next t) :
    (s.arrivals = [] ∧ t = s) ∨
    ∃ a rest i s0, takeNext s.arrivals = some (a, rest) ∧ arrive a.stamp s = .ok s0 ∧
      exec i (consume rest s0) = .next t := by
  unfold step at h
  split at h
  · next hf =>
    cases h
    exact .inl ⟨fetch_eq_none hf, rfl⟩
  · cases h
  · next i s1 hf =>
    obtain ⟨a, rest, s0, ha, -, h0, rfl⟩ := fetch_some hf
    exact .inr ⟨a, rest, i, s0, ha, h0, h⟩

/-- A step that finds nothing to arrive holds its state (R209). -/
theorem step_nothing {s : State} (h : s.arrivals = []) : step s = .next s := by
  simp [step, fetch, takeNext, h]

/-- A choice among the arrivals of one cycle leaves no more than there were (R201). -/
theorem arbitrate_length_le (head : Arrival) (group later : List Arrival) :
    (arbitrate head group later).2.length ≤ group.length + later.length := by
  have herase : ∀ access : Arrival, (group.erase access).length ≤ group.length := fun _ => List.length_erase_le
  unfold arbitrate
  split
  · simp
  · split
    · simp
    · split_ifs
      · split
        · simp [herase]
        · simp
      · simp

/-- What is left to arrive is no more than there was. -/
theorem takeNext_length_le {as rest : List Arrival} {a : Arrival} (h : takeNext as = some (a, rest)) :
    rest.length ≤ as.length := by
  unfold takeNext at h
  split at h
  · cases h
  · next b bs =>
    split at h
    · cases h
      simp
    · next t hb =>
      have hsplit := congrArg List.length (List.takeWhile_append_dropWhile (p := fun c => c.stamp == some t) (l := bs))
      have hle := arbitrate_length_le b (b :: bs.takeWhile (fun c => c.stamp == some t))
        (bs.dropWhile (fun c => c.stamp == some t))
      simp only [Option.some.injEq] at h
      rw [h] at hle
      simp only [List.length_append, List.length_cons] at hsplit hle ⊢
      omega

/-- An unstamped arrival is taken with nothing else. -/
theorem takeNext_unstamped {a : Arrival} (h : a.stamp = none) (rest : List Arrival) :
    takeNext (a :: rest) = some (a, rest) := by
  simp [takeNext, h]

/-- Settles O12: the index advances by what the transcript loses, and the event touches neither. -/
theorem eventIndexCountsEvents : Obligations.EventIndexCountsEvents := by
  constructor
  · intro s t h
    obtain ⟨-, rfl⟩ | ⟨a, rest, i, s0, htake, harr, hexec⟩ := step_next h
    · rfl
    · obtain ⟨hrest, hindex, -⟩ := eventsLeaveTheirSurroundings i _ t hexec
      have hle := takeNext_length_le htake
      obtain rfl := arrive_ok harr
      rw [hrest, hindex]
      simp only [consume_arrivals, consume_eventIndex]
      omega
  · intro s t a rest hs ha h
    obtain ⟨hnil, -⟩ | ⟨b, left, i, s0, htake, harr, hexec⟩ := step_next h
    · simp [hs] at hnil
    · obtain ⟨hrest, hindex, -⟩ := eventsLeaveTheirSurroundings i _ t hexec
      rw [hs, takeNext_unstamped ha, Option.some.injEq, Prod.mk.injEq] at htake
      obtain ⟨rfl, rfl⟩ := htake
      obtain rfl := arrive_ok harr
      rw [hrest, hindex]
      simp [hs]

/-- A word of the opcode table decodes to what the table reader finds. -/
theorem decode_of_decodeTableWord {nbits w : Nat} {i : Instr} (h : decodeTableWord nbits w = some i) :
    decode (tableWord nbits w) = .ok i := by
  unfold decodeTableWord at h
  cases hd : decode (tableWord nbits w) with
  | error e => simp [hd, Except.toOption] at h
  | ok j => simpa [hd, Except.toOption] using h

/-- Settles O10: the step rules for one arrival in hand; a placed word is an unstamped arrival. -/
theorem stepRunsTheDecodedEvent : Obligations.StepRunsTheDecodedEvent := by
  refine ⟨fun s w i rest hs hi => ?_, fun s w i t rest hs hi hend hnow => ?_, fun s nbits w i hi => ?_,
    fun s hs => step_nothing hs⟩
  · exact step_unstamped hs (inputInstr_of_inputWord rfl hi)
  · exact step_stamped hs (inputInstr_of_inputWord rfl hi) hend hnow
  · have hinstr := inputInstr_of_inputWord (input := .word (tableWord nbits w)) rfl (decode_of_decodeTableWord hi)
    exact step_unstamped (s := s.withFetchWord nbits w) rfl hinstr

/-! ## The mode, the configuration and the delay lines (R36, R42, R43) -/

/-- Bit 0 of STATUS is the INIT bit (R33). -/
theorem statusWord_bit_zero (s : State) : (statusWord s).getLsbD 0 = (initBit s.mode).getLsbD 0 := by
  rw [statusWord, BitVec.getLsbD_append, if_pos (by decide)]

/-- No event but RESET and INIT changes the mode. -/
theorem exec_mode {i : Instr} {s t : State} (h : exec i s = .next t) (hr : i ≠ .reset) (hi : i ≠ .init) :
    t.mode = s.mode := by
  obtain ⟨rfl, -⟩ | ⟨rfl, -, -⟩ | ⟨-, -, rfl⟩ | ⟨r, data, -, -, rfl⟩ | ⟨hb, -⟩ := exec_classes h
  · exact absurd rfl hr
  · exact absurd rfl hi
  · simp
  · simp
  · exact hb.mode

/-- Settles O46: the mode after each class of event, and the bit that shows it. -/
theorem modeChangesOnlyByInitAndReset : Obligations.ModeChangesOnlyByInitAndReset := by
  refine ⟨fun i s t h => ⟨?_, ?_, exec_mode h, fun hi => (exec_tick_next hi h).1⟩, fun s hm => ?_, fun s => ?_⟩
  · rintro rfl
    exact exec_reset_mode h
  · rintro rfl
    obtain ⟨-, rfl⟩ := exec_init_next h
    exact commitInit_mode s
  · cases hb : stepInProgress s with
    | true => exact ⟨.overlap, whenIdle_busy hb _⟩
    | false => exact ⟨.stepBeforeInit, by simp [exec, execStep, whenIdle_idle hb, runStep, hm]⟩
  · rw [statusWord_bit_zero]
    cases s.mode with
    | uninit => rfl
    | initialized => rfl

theorem ne_of_isConfig {q r : DataReg} (hq : q.isConfig = false) (hr : r.isConfig = true) : q ≠ r := by
  rintro rfl
  simp [hq] at hr

/-- Neither the configuration registers nor UPPER_NEG are among the registers that INIT zeroes (R118). -/
theorem historyRegs_no_configuration : ∀ r ∈ historyRegs, r ≠ .upperNeg ∧ r.isConfig = false := by decide

/-- Neither the configuration registers nor UPPER_NEG are among the registers that STEP writes (R150). -/
theorem stepWrites_no_configuration : ∀ r ∈ stepWrites, r ≠ .upperNeg ∧ r.isConfig = false := by decide

theorem delayLine_subset_historyRegs : ∀ r ∈ delayLine, r ∈ historyRegs := by decide

theorem not_mem_stepWrites {r : DataReg} (h : r = .upperNeg ∨ r.isConfig = true) : r ∉ stepWrites := by
  intro hw
  obtain ⟨hn, hc⟩ := stepWrites_no_configuration r hw
  exact h.elim hn fun hr => ne_of_isConfig hc hr rfl

/-- INIT keeps a configuration register and its flag (R118). -/
theorem commitInit_config {r : DataReg} (h : r.isConfig = true) (s : State) :
    (commitInit s).regs.get r = s.regs.get r ∧ (commitInit s).written.get r = s.written.get r := by
  have hn : r ≠ .upperNeg := (ne_of_isConfig rfl h).symm
  have hh : r ∉ historyRegs := fun hm => ne_of_isConfig (historyRegs_no_configuration r hm).2 h rfl
  simp only [commitInit_get, commitInit_held, if_neg hn, if_neg hh, and_self]

/-- INIT zeroes the history registers (R118). -/
theorem commitInit_history (s : State) {r : DataReg} (h : r ∈ historyRegs) : (commitInit s).regs.get r = 0#32 := by
  rw [commitInit_get, if_neg (historyRegs_no_configuration r h).1, if_pos h]

/-- A tick changes no register outside `stepWrites` (R150). -/
theorem tick_other (s : State) {r : DataReg} (h : r ∉ stepWrites) : (tick s).regs.get r = s.regs.get r := by
  rw [tick_regs, filterStep_other _ _ h]

/-- An event from INITIALIZED to INITIALIZED keeps the configuration (R42). -/
theorem exec_keeps_configuration {i : Instr} {s t : State} (h : exec i s = .next t) (hneg : UpperNegFormed s)
    (hs : s.mode = .initialized) (ht : t.mode = .initialized) {r : DataReg} (hr : r = .upperNeg ∨ r.isConfig = true) :
    t.regs.get r = s.regs.get r ∧ (r ≠ .upperNeg → t.written.get r = s.written.get r) := by
  obtain ⟨rfl, -⟩ | ⟨-, -, rfl⟩ | ⟨-, -, rfl⟩ | ⟨q, data, -, hm, -⟩ | ⟨hb, -⟩ := exec_classes h
  · rw [exec_reset_mode h] at ht
    cases ht
  · rcases hr with rfl | hr
    · exact ⟨by rw [commitInit_get, if_pos rfl, hneg hs], fun hn => absurd rfl hn⟩
    · exact ⟨(commitInit_config hr s).1, fun _ => (commitInit_config hr s).2⟩
  · have hw := not_mem_stepWrites hr
    exact ⟨tick_other s hw, fun _ => by rw [tick_held, if_neg hw]⟩
  · rw [hm] at hs
    cases hs
  · exact ⟨by rw [hb.regs], fun _ => by rw [hb.written]⟩

/-- Settles O47: what arrives keeps the block, and the event keeps the configuration. -/
theorem configurationIsImmutable : Obligations.ConfigurationIsImmutable := by
  intro s t hneg h hs ht r hr
  obtain ⟨-, rfl⟩ | ⟨a, rest, i, s0, -, harr, hexec⟩ := step_next h
  · exact ⟨rfl, fun _ => rfl⟩
  · obtain rfl := arrive_ok harr
    exact exec_keeps_configuration hexec hneg hs ht hr

/-- Settles O48: the delay lines after each class of event. -/
theorem historyMovesOnlyByInitAndStep : Obligations.HistoryMovesOnlyByInitAndStep := by
  intro i s t h hreset
  refine ⟨?_, fun hi => ?_, fun hinit hstep htrig r hr => ?_⟩
  · rintro rfl r hr
    obtain ⟨-, rfl⟩ := exec_init_next h
    exact commitInit_history s (delayLine_subset_historyRegs r hr)
  · obtain ⟨-, rfl⟩ := exec_tick_next hi h
    rw [tick_regs]
    exact ⟨filterStep_e1 _ _, filterStep_e2 _ _, filterStep_u1 _ _, filterStep_u2 _ _⟩
  · obtain ⟨hi, -⟩ | ⟨hi, -, -⟩ | ⟨hi, -, -⟩ | ⟨q, data, hq, -, rfl⟩ | ⟨hb, -⟩ := exec_classes h
    · exact absurd hi hreset
    · exact absurd hi hinit
    · exact absurd hi (not_or.mpr ⟨hstep, htrig⟩)
    · have hr := (historyRegs_no_configuration r (delayLine_subset_historyRegs r hr)).2
      rw [writeReg_regs, get_set_other _ _ (ne_of_isConfig hr hq)]
    · rw [hb.regs]

/-! ## The block's invariant (R33, R118, R150, R220) -/

theorem StatusMoves.coherent {s t : State} (h : StatusMoves s t) (hs : StatusCoherent s) : StatusCoherent t := by
  obtain ⟨he, hc⟩ | ⟨he, hc⟩ | ⟨he, hc⟩ := h
  · unfold StatusCoherent
    rw [he, hc]
    exact hs
  · exact ⟨fun _ => hc, fun ht => by simp [he] at ht⟩
  · exact ⟨fun hf => by simp [he] at hf, fun _ => hc⟩

/-- A block that is the same but for a coherent STATUS keeps the invariant. -/
theorem Inv.of_sameBlock {s t : State} (h : Inv s) (hb : SameBlock s t) (hst : StatusCoherent t) : Inv t where
  status := hst
  configuration := by
    unfold HoldsConfiguration
    rw [hb.mode, hb.written]
    exact h.configuration
  unformed := by
    unfold NothingFormed
    rw [hb.mode, hb.written, hb.actOutWritten, hb.dutyQ8Written]
    exact h.unformed
  upperNeg := by
    unfold UpperNegFormed
    rw [hb.mode, hb.regs]
    exact h.upperNeg
  thirdError := by
    unfold ThirdErrorZero
    rw [hb.mode, hb.regs]
    exact h.thirdError
  ports := by
    unfold PortsMirror
    rw [hb.regs, hb.written, hb.actOut, hb.actOutWritten, hb.dutyQ8Written]
    exact h.ports
  floor := by
    unfold FloorHeld
    rw [hb.mode, hb.regs, hb.written]
    exact h.floor
  outputs := by
    unfold OutputsBounded WithinBound
    rw [hb.mode, hb.regs]
    exact h.outputs
  errors := by
    unfold ErrorsBounded WithinBound
    rw [hb.mode, hb.regs]
    exact h.errors
  counted := by
    unfold StepCounted
    rw [hb.mode, hb.doneCount]
    exact fun ho => h.counted (hb.stepStart ho)

/-- A block in UNINIT meets every part of the invariant that speaks of INITIALIZED. -/
theorem Inv.of_uninit {t : State} (hm : t.mode = .uninit) (hst : StatusCoherent t) (hn : NothingFormed t)
    (hstart : t.stepStart = none) : Inv t := by
  have no : ∀ {p : Prop}, t.mode = .initialized → p := fun hi => by rw [hm] at hi; cases hi
  obtain ⟨hregs, hact, hduty⟩ := hn hm
  have hout := hregs .lastOut rfl
  exact ⟨hst, no, hn, no, no, ⟨by rw [hact, hout], by rw [hduty, hout], fun ht => by rw [hout] at ht; cases ht⟩, no, no, no,
    fun ho => absurd hstart ho⟩

/-- In UNINIT no STEP window is open. -/
theorem Inv.stepStart_uninit {s : State} (h : Inv s) (hm : s.mode = .uninit) : s.stepStart = none := by
  by_contra ho
  obtain ⟨hi, -⟩ := h.counted ho
  rw [hm] at hi
  cases hi

/-! ### RESET and a configuration write -/

theorem inv_execReset {s t : State} (h : execReset s = .next t) : Inv t := by
  cases h
  exact .of_uninit rfl ⟨fun _ => rfl, fun he => by cases he⟩ (fun _ => ⟨fun r _ => get_fill false r, rfl, rfl⟩) rfl

/-- A configuration write in UNINIT forms nothing: its register is a configuration register (R111). -/
theorem inv_writeReg {s : State} (h : Inv s) (hm : s.mode = .uninit) {r : DataReg} (hr : r.isConfig = true) (data : Word) :
    Inv (writeReg r data s) := by
  obtain ⟨hregs, hports⟩ := h.unformed hm
  refine .of_uninit hm h.status (fun _ => ⟨fun q hq => ?_, hports⟩) (h.stepStart_uninit hm)
  rw [writeReg_written, get_set_other _ _ (ne_of_isConfig hq hr)]
  exact hregs q hq

/-! ### INIT -/

/-- INIT on a whole configuration leaves every register but LAST_OUT with a value (R118). -/
theorem commitInit_holdsConfiguration {s : State} (h : ∀ r ∈ configRegs, s.written.get r = true) :
    HoldsConfiguration (commitInit s) := by
  intro _ r hr
  have hcases : r = .upperNeg ∨ r ∈ historyRegs ∨ r ∈ configRegs := by cases r <;> revert hr <;> decide
  rw [commitInit_held]
  split_ifs with hn hh
  · rfl
  · rfl
  · rcases hcases with hc | hc | hc
    · exact absurd hc hn
    · exact absurd hc hh
    · exact h r hc

/-- INIT keeps LAST_OUT and its flag (R118). -/
theorem commitInit_lastOut (s : State) :
    (commitInit s).regs.get .lastOut = s.regs.get .lastOut ∧
    (commitInit s).written.get .lastOut = s.written.get .lastOut := by
  constructor
  · rw [commitInit_get, if_neg (by decide), if_neg (by decide)]
  · rw [commitInit_held, if_neg (by decide), if_neg (by decide)]

/-- A LAST_OUT that holds a value at INIT was written in INITIALIZED, where LOWER is not below it. -/
theorem Inv.commitInit_floorHeld {s : State} (h : Inv s) : FloorHeld (commitInit s) := by
  obtain ⟨hout, hheld⟩ := commitInit_lastOut s
  intro _ hw
  rw [hheld] at hw
  rw [hout, (commitInit_config (r := .lower) rfl s).1]
  cases hm : s.mode with
  | initialized => exact h.floor hm hw
  | uninit =>
    rw [(h.unformed hm).1 .lastOut rfl] at hw
    cases hw

theorem withinBound_of_eq_zero {bound : Int} {s : State} {r : DataReg} (hb : 0 ≤ bound) (h : s.regs.get r = 0#32) :
    WithinBound bound s r := by
  unfold WithinBound
  rw [h, s32_zero]
  omega

theorem inv_commitInit {s : State} (h : Inv s) (hc : ∀ r ∈ configRegs, s.written.get r = true) : Inv (commitInit s) where
  status := h.status
  configuration := commitInit_holdsConfiguration hc
  unformed := fun hm => by cases hm
  upperNeg := fun _ => by rw [commitInit_get, if_pos rfl, (commitInit_config (r := .upper) rfl s).1]
  thirdError := fun _ => commitInit_history s (by decide)
  ports := by
    obtain ⟨hout, hheld⟩ := commitInit_lastOut s
    unfold PortsMirror
    rw [hout, hheld]
    exact h.ports
  floor := h.commitInit_floorHeld
  outputs := fun _ hu => ⟨withinBound_of_eq_zero hu (commitInit_history s (by decide)),
    withinBound_of_eq_zero hu (commitInit_history s (by decide)),
    withinBound_of_eq_zero hu (commitInit_history s (by decide))⟩
  errors := fun _ _ => ⟨withinBound_of_eq_zero (by decide) (commitInit_history s (by decide)),
    withinBound_of_eq_zero (by decide) (commitInit_history s (by decide)),
    withinBound_of_eq_zero (by decide) (commitInit_history s (by decide))⟩
  counted := fun ho => ⟨rfl, (h.counted ho).2⟩

/-! ### A tick -/

/-- A value that is not negative has its exact negation (R27). -/
theorem s32_negatedUpper {w : Word} (h : 0 ≤ s32 w) : s32 (negatedUpper w) = -s32 w := by
  have hw := s32_inWord w
  rw [negatedUpper, s32_u32, wrap32_wrap32, wrap32_of_inWord]
  · omega
  · unfold InWord at hw ⊢
    omega

/-- With REF in its design range the new error does not wrap and stays in [−4095, 4095] (R156). -/
theorem newError_bounds {ref : Word} (h : inDesignRange .ref ref = true) (fb : Sample) :
    -4095 ≤ wrap32 (s32 ref - fb.toNat) ∧ wrap32 (s32 ref - fb.toNat) ≤ 4095 := by
  have hfb : fb.toNat < 4096 := fb.isLt
  simp only [inDesignRange, Bool.and_eq_true, decide_eq_true_eq] at h
  obtain ⟨hlo, hhi⟩ := h
  rw [wrap32_of_inWord]
  · omega
  · unfold InWord
    omega

/-- With UPPER not negative the clamped value lies in [−UPPER, UPPER] (R158, R165 item 1). -/
theorem tickClamped_bounds {x : RegFile Word} (hneg : x.get .upperNeg = negatedUpper (x.get .upper))
    (hu : 0 ≤ s32 (x.get .upper)) (fb : Sample) :
    -s32 (x.get .upper) ≤ tickClamped fb x ∧ tickClamped fb x ≤ s32 (x.get .upper) := by
  have hn : s32 (x.get .upperNeg) = -s32 (x.get .upper) := by rw [hneg, s32_negatedUpper hu]
  rw [← hn]
  exact clampHiFirst_bounds (by omega)

/-- After a tick LAST_OUT is not below LOWER, whatever the state before (R160). -/
theorem tick_floorHeld (s : State) : FloorHeld (tick s) := by
  intro _ _
  rw [tick_other s (r := .lower) (by decide), tick_regs, s32_filterStep_lastOut, floorClamp_eq_max]
  exact le_max_right _ _

/-- A tick pushes a clamped value into the output history (R158). -/
theorem Inv.tick_outputsBounded {s : State} (h : Inv s) (hm : s.mode = .initialized) : OutputsBounded (tick s) := by
  intro _ hu
  rw [tick_other s (r := .upper) (by decide)] at hu ⊢
  obtain ⟨h0, h1, -⟩ := h.outputs hm hu
  unfold WithinBound at h0 h1 ⊢
  rw [tick_regs, s32_filterStep_u0, filterStep_u1, filterStep_u2]
  exact ⟨tickClamped_bounds (h.upperNeg hm) hu _, h0, h1⟩

/-- A tick pushes the new error into the error history (R156). -/
theorem Inv.tick_errorsBounded {s : State} (h : Inv s) (hm : s.mode = .initialized) : ErrorsBounded (tick s) := by
  intro _ hr
  rw [tick_other s (r := .ref) (by decide)] at hr
  obtain ⟨h0, h1, -⟩ := h.errors hm hr
  unfold WithinBound at h0 h1 ⊢
  rw [tick_regs, s32_filterStep_e0, filterStep_e1, filterStep_e2]
  exact ⟨newError_bounds hr _, h0, h1⟩

theorem tick_portsMirror (s : State) : PortsMirror (tick s) := by
  have hout : (tick s).written.get .lastOut = true := by rw [tick_held, if_pos (by decide)]
  unfold PortsMirror
  rw [hout, tick_actOut, tick_regs]
  exact ⟨tick_actOutWritten s, tick_dutyQ8Written s, fun _ => rfl⟩

theorem inv_tick {s : State} (h : Inv s) (hm : s.mode = .initialized) : Inv (tick s) where
  status := by
    unfold StatusCoherent
    rw [tick_err, tick_errc]
    exact h.status
  configuration := fun _ r hr => by
    rw [tick_held]
    split_ifs
    · rfl
    · exact h.configuration hm r hr
  unformed := fun hu => by
    rw [tick_mode, hm] at hu
    cases hu
  upperNeg := fun _ => by
    rw [tick_other s (r := .upperNeg) (by decide), tick_other s (r := .upper) (by decide)]
    exact h.upperNeg hm
  thirdError := fun _ => by
    rw [tick_other s (r := .e3) (by decide)]
    exact h.thirdError hm
  ports := tick_portsMirror s
  floor := tick_floorHeld s
  outputs := h.tick_outputsBounded hm
  errors := h.tick_errorsBounded hm
  counted := fun _ => by
    rw [tick_mode, tick_doneCount]
    exact ⟨hm, Nat.succ_pos _⟩

/-! ### Every event and every step -/

/-- Every event that completes keeps the invariant. -/
theorem inv_exec {i : Instr} {s t : State} (h : Inv s) (hexec : exec i s = .next t) : Inv t := by
  obtain ⟨-, hreset⟩ | ⟨-, hc, rfl⟩ | ⟨-, hm, rfl⟩ | ⟨r, data, hr, hm, rfl⟩ | ⟨hb, hst⟩ := exec_classes hexec
  · exact inv_execReset hreset
  · exact inv_commitInit h hc
  · exact inv_tick h hm
  · exact inv_writeReg h hm hr data
  · exact h.of_sameBlock hb (hst.coherent h.status)

/-- Arriving at the block keeps the invariant. -/
theorem inv_arrive {stamp : Option Nat} {s s0 : State} (h : Inv s) (harr : arrive stamp s = .ok s0)
    (rest : List Arrival) : Inv (consume rest s0) := by
  have hb := (SameBlock.of_arrive harr).trans (.of_consume rest s0)
  obtain rfl := arrive_ok harr
  exact h.of_sameBlock hb h.status

/-- Settles O50: the arrival keeps the invariant, and so does the event it spells. -/
theorem everyStepKeepsTheInvariant : Obligations.EveryStepKeepsTheInvariant := by
  intro s t h hstep
  obtain ⟨-, rfl⟩ | ⟨a, rest, i, s0, -, harr, hexec⟩ := step_next hstep
  · exact h
  · exact inv_exec (inv_arrive h harr rest) hexec

end Sys2Proof.Machine

namespace Sys2Proof.Machine

/-! ## The register window, byte by byte (R61, R63) -/

/-- Every register of the window starts at a multiple of 4 (R44, R63). -/
theorem offset_toNat_mod_four {slot : Slot} (h : slot.wellFormed = true) : slot.offset.toNat % 4 = 0 := by
  by_contra hmis
  have hnone := (slotAt_eq_none_iff slot.offset).mpr hmis
  rw [slotAt_offset h] at hnone
  cases hnone

/-- The mask 0xFC takes any of the four bytes of an aligned word back to the word's offset. -/
theorem add_and_mask_of_aligned : ∀ off : Offset, off.toNat % 4 = 0 → ∀ k : Fin 4,
    (off + BitVec.ofNat 8 k.val) &&& 0xFC#8 = off := by decide

/-- The byte number inside an aligned word is the distance from the word's offset. -/
theorem add_toNat_mod_four {off : Offset} (h : off.toNat % 4 = 0) (k : Fin 4) :
    (off + BitVec.ofNat 8 k.val).toNat % 4 = k.val := by
  have hk := k.isLt
  rw [BitVec.toNat_add, BitVec.toNat_ofNat]
  omega

/-- Settles O22: the mask finds the slot's offset, and with it the slot; the rest is the byte number. -/
theorem windowIsLittleEndian : Obligations.WindowIsLittleEndian := by
  intro s slot k h
  have hal := offset_toNat_mod_four h
  unfold windowByte
  rw [add_and_mask_of_aligned _ hal, slotAt_offset h, add_toNat_mod_four hal]

/-! ## An access without an event word (R64) -/

/-- Inside the window, an access that is not 32 bits wide or not aligned has no event word (R64). -/
theorem busWord_unsupported {a : BusAccess} {off : Nat} (haddr : a.addr = Config.base + off) (hlt : off < 256)
    (hbad : a.width ≠ 32 ∨ off % 4 ≠ 0) : busWord a = .error (.unsupportedAccess a.width off) := by
  have hlo : ¬ Config.base + off < Config.base := by omega
  have hhi : ¬ Config.base + Config.windowBytes ≤ Config.base + off := by
    unfold Config.windowBytes
    omega
  unfold busWord
  rw [haddr, if_neg hlo, if_neg hhi, Nat.add_sub_cancel_left]
  by_cases hw : a.width = 32
  · have hmis : off % 4 ≠ 0 := hbad.resolve_left (not_not.mpr hw)
    simp [hw, hmis]
  · simp [hw]

/-- An input without an event word spells nothing, for the same reason (R64). -/
theorem inputInstr_of_inputWord_error {input : Input} {r : Refusal} (h : inputWord input = .error r) :
    inputInstr input = .error r := by
  simp [inputInstr, h]

/-- A step whose next arrival spells no event refuses it, stamped or not, and whatever arrives with it (R82, R64). -/
theorem step_refused {s : State} {a : Arrival} {rest : List Arrival} {r : Refusal} (hs : s.arrivals = a :: rest)
    (hr : inputInstr a.input = .error r) : step s = .refused r := by
  have hnothing : spellsNothing a = true := by simp [spellsNothing, spells, hr]
  obtain ⟨later, htake⟩ := takeNext_of_spellsNothing rest hnothing
  simp [step, fetch, hs, htake, hr]

/-- Settles O6: the access has no event word, so the step that meets it refuses. -/
theorem narrowOrMisalignedAccessIsRefused : Obligations.NarrowOrMisalignedAccessIsRefused := by
  intro s stamp a off rest hs haddr hlt hbad
  have hunsupported : a.width ≠ 32 ∨ off % 4 ≠ 0 := by omega
  have hword : inputWord (.bus a) = .error (.unsupportedAccess a.width off) :=
    busWord_unsupported haddr hlt hunsupported
  exact step_refused hs (inputInstr_of_inputWord_error hword)

/-! ## A read, once and twice (R68) -/

/-- A slot reads the same after a read: neither the answer nor the record is part of the window (R180). -/
theorem readSlot_respond_noteReads (slot : Slot) (w : Word) (rs : List DataReg) (s : State) :
    readSlot slot (respond w (noteReads rs s)) = readSlot slot s := by
  cases slot with
  | cmd => rfl
  | status => rfl
  | shifts => rfl
  | data r => rfl
  | reserved off => rfl

/-- Reading the same registers again records nothing new: the record is the first of two choices, and offering the second
one again adds nothing (log 23). -/
theorem noteReads_respond_noteReads (w : Word) (rs : List DataReg) (s : State) :
    noteReads rs (respond w (noteReads rs s)) = respond w (noteReads rs s) := by
  simp [noteReads, respond, firstUnwritten, Option.or_assoc]

/-- A read outside a STEP window, performed again, answers the state it left (R68). -/
theorem execRd_again {s : State} (h : stepInProgress s = false) (slot : Slot) :
    execRd slot (respond (readSlot slot s) (noteReads (slotReads slot) s)) =
      .next (respond (readSlot slot s) (noteReads (slotReads slot) s)) := by
  have hidle : stepInProgress (respond (readSlot slot s) (noteReads (slotReads slot) s)) = false := h
  rw [execRd_idle hidle, readSlot_respond_noteReads, noteReads_respond_noteReads]
  rfl

/-- Settles O21: inside a STEP window the draw counter moves, outside one the record can; a second read finds both as the
first left them. -/
theorem readHasNoSideEffect : Obligations.ReadHasNoSideEffect := by
  intro slot s t h
  obtain ⟨hbusy, rfl⟩ | ⟨hidle, rfl⟩ := execRd_next h
  · exact ⟨rfl, fun hidle => by simp [hbusy] at hidle⟩
  · exact ⟨rfl, fun _ => ⟨rfl, execRd_again hidle slot⟩⟩

end Sys2Proof.Machine

namespace Sys2Proof.Machine

/-! ## The words that spell an instruction (R80 to R84) -/

/-- The word spells the instruction, by R83's table: a read or a write of the slot at OFF, or one of the three port events. -/
inductive Spelling : EventWord → Instr → Prop where
  | read {slot : Slot} : slot.wellFormed = true → Spelling (readWord slot.offset) (.rd slot)
  | write {slot : Slot} (data : Word) : slot.wellFormed = true →
      Spelling (writeWord slot.offset data) (decodeWrite slot data)
  | trig : Spelling (eventWord 0#32 0b010#3 0#8) .trig
  | sample (v : Sample) : Spelling (eventWord (v.setWidth 32) 0b011#3 0#8) (.sample v)
  | reset : Spelling (eventWord 0#32 0b100#3 0#8) .reset

/-! ### A write by its slot -/

/-- A write to a read-only slot is WR_RO of that slot (R83). -/
theorem decodeWrite_of_isReadOnly {slot : Slot} (h : slot.isReadOnly = true) (data : Word) :
    decodeWrite slot data = .wrRo slot data := by
  cases slot with
  | shifts => rfl
  | data r => cases r <;> cases h <;> rfl
  | cmd => cases h
  | status => cases h
  | reserved off => cases h

theorem wellFormed_of_isReadOnly {slot : Slot} (h : slot.isReadOnly = true) : slot.wellFormed = true := by
  cases slot with
  | reserved off => cases h
  | cmd => rfl
  | status => rfl
  | shifts => rfl
  | data r => rfl

/-- A command word other than 1 and 2 is reserved (R84). -/
theorem decodeCommand_reserved {data : Word} (h : (Instr.cmdRsvd data).wellFormed = true) :
    decodeCommand data = .cmdRsvd data := by
  simp only [Instr.wellFormed, Bool.and_eq_true, bne_iff_ne] at h
  simp [decodeCommand, h]

/-- Every well-formed bus write is the write of a word to a slot (R83, R84). -/
theorem exists_eq_decodeWrite {i : Instr} (hb : isBusWrite i = true) (hw : i.wellFormed = true) :
    ∃ slot data, slot.wellFormed = true ∧ decodeWrite slot data = i := by
  cases i with
  | init => exact ⟨.cmd, 1#32, rfl, rfl⟩
  | step => exact ⟨.cmd, 2#32, rfl, rfl⟩
  | cmdRsvd data => exact ⟨.cmd, data, rfl, decodeCommand_reserved hw⟩
  | wrStatus data => exact ⟨.status, data, rfl, rfl⟩
  | wrB0 data => exact ⟨.data .b0, data, rfl, rfl⟩
  | wrB1 data => exact ⟨.data .b1, data, rfl, rfl⟩
  | wrB2 data => exact ⟨.data .b2, data, rfl, rfl⟩
  | wrB3 data => exact ⟨.data .b3, data, rfl, rfl⟩
  | wrA1 data => exact ⟨.data .a1, data, rfl, rfl⟩
  | wrA2 data => exact ⟨.data .a2, data, rfl, rfl⟩
  | wrA3 data => exact ⟨.data .a3, data, rfl, rfl⟩
  | wrRef data => exact ⟨.data .ref, data, rfl, rfl⟩
  | wrUpper data => exact ⟨.data .upper, data, rfl, rfl⟩
  | wrLower data => exact ⟨.data .lower, data, rfl, rfl⟩
  | wrRo slot data => exact ⟨slot, data, wellFormed_of_isReadOnly hw, decodeWrite_of_isReadOnly hw data⟩
  | wrRsvd off data => exact ⟨.reserved off, data, hw, rfl⟩
  | rd slot => cases hb
  | trig => cases hb
  | sample v => cases hb
  | reset => cases hb

/-- The write of a word to a slot is well formed, and its event word is the WR word of the slot's offset (R84, R91). -/
theorem decodeWrite_spec {slot : Slot} (h : slot.wellFormed = true) (data : Word) :
    (decodeWrite slot data).wellFormed = true ∧ encode (decodeWrite slot data) = writeWord slot.offset data := by
  cases slot with
  | cmd =>
    unfold decodeWrite decodeCommand
    split_ifs with h1 h2
    · exact ⟨rfl, by rw [h1]; rfl⟩
    · exact ⟨rfl, by rw [h2]; rfl⟩
    · exact ⟨by simp [Instr.wellFormed, h1, h2], rfl⟩
  | data r => cases r <;> exact ⟨rfl, rfl⟩
  | status => exact ⟨rfl, rfl⟩
  | shifts => exact ⟨rfl, rfl⟩
  | reserved off => exact ⟨h, rfl⟩

/-! ### The decoder and the encoder on spelled words -/

/-- The DATA of a SAMPLE word is below 2^SAMPLE_W (R81). -/
theorem sample_toNat_lt (v : Sample) : (v.setWidth 32).toNat < 4096 := by
  rw [BitVec.toNat_setWidth_of_le (by decide)]
  exact v.isLt

/-- A SAMPLE word whose DATA is below 4096 spells that sample (R83). -/
theorem decode_sampleWord {data : Word} (h : data.toNat < 4096) :
    decode (eventWord data 0b011#3 0#8) = .ok (.sample (data.setWidth 12)) := by
  simp [decode_eventWord, decodeFields, h]

/-- A word of 32 bits below 4096 is its own low 12 bits. -/
theorem setWidth_setWidth_of_lt {data : Word} (h : data.toNat < 4096) : (data.setWidth 12).setWidth 32 = data := by
  apply BitVec.eq_of_toNat_eq
  simp only [BitVec.toNat_setWidth]
  omega

theorem decode_of_spelling {w : EventWord} {i : Instr} (h : Spelling w i) : decode w = .ok i := by
  cases h with
  | read hs => exact decode_readWord (slotAt_offset hs)
  | write data hs => exact decode_writeWord (slotAt_offset hs) data
  | trig => rfl
  | sample v =>
    simp [decode_sampleWord (sample_toNat_lt v)]
  | reset => rfl

/-- A TRIG or RESET word carries neither DATA nor OFF (R82 item 5). -/
theorem decodeBare_eq_ok {i j : Instr} {data : Word} {off : Offset} (h : decodeBare i data off = .ok j) :
    data = 0#32 ∧ off = 0#8 ∧ i = j := by
  unfold decodeBare at h
  split_ifs at h with hd ho
  cases h
  exact ⟨not_not.mp hd, not_not.mp ho, rfl⟩

/-- What fields decode to, their word spells: KIND by KIND, R82's conditions leave R83's words. -/
theorem spelling_of_decodeFields {data : Word} {kind : BitVec 3} {off : Offset} {i : Instr}
    (h : decodeFields data kind off = .ok i) : Spelling (eventWord data kind off) i := by
  unfold decodeFields at h
  split_ifs at h with hrd hdata hwr htrig hsample hoff hwide hreset
  · obtain rfl := not_not.mp hdata
    split at h
    · next slot hs =>
      obtain ⟨hwf, rfl⟩ := slotAt_some hs
      cases h
      exact hrd ▸ .read hwf
    · cases h
  · split at h
    · next slot hs =>
      obtain ⟨hwf, rfl⟩ := slotAt_some hs
      cases h
      exact hwr ▸ .write data hwf
    · cases h
  · obtain ⟨rfl, rfl, rfl⟩ := decodeBare_eq_ok h
    exact htrig ▸ .trig
  · obtain rfl := not_not.mp hoff
    cases h
    have hspelled := Spelling.sample (data.setWidth 12)
    rw [setWidth_setWidth_of_lt (not_le.mp hwide)] at hspelled
    exact hsample ▸ hspelled
  · obtain ⟨rfl, rfl, rfl⟩ := decodeBare_eq_ok h
    exact hreset ▸ .reset

/-- The decoder reads exactly the spelled words (R82, R83). -/
theorem decode_eq_ok_iff {w : EventWord} {i : Instr} : decode w = .ok i ↔ Spelling w i := by
  refine ⟨fun h => ?_, decode_of_spelling⟩
  unfold decode at h
  split_ifs at h with hr
  rw [← eventWord_fields (not_not.mp hr)]
  exact spelling_of_decodeFields h

/-- The encoder writes a word that spells the instruction (R91). -/
theorem spelling_encode {i : Instr} (h : i.wellFormed = true) : Spelling (encode i) i := by
  by_cases hb : isBusWrite i = true
  · obtain ⟨slot, data, hs, rfl⟩ := exists_eq_decodeWrite hb h
    rw [(decodeWrite_spec hs data).2]
    exact .write data hs
  · cases i with
    | rd slot => exact .read h
    | trig => exact .trig
    | sample v => exact .sample v
    | reset => exact .reset
    | _ => exact absurd rfl hb

/-- Only the encoder's word spells an instruction, and only a well-formed one is spelled (R86). -/
theorem encode_of_spelling {w : EventWord} {i : Instr} (h : Spelling w i) : i.wellFormed = true ∧ encode i = w := by
  cases h with
  | read hs => exact ⟨hs, rfl⟩
  | write data hs => exact decodeWrite_spec hs data
  | trig => exact ⟨rfl, rfl⟩
  | sample v => exact ⟨rfl, rfl⟩
  | reset => exact ⟨rfl, rfl⟩

/-- Settles O1: the encoder's word spells the instruction, and the decoder reads what is spelled. -/
theorem encodedEventDecodesBack : Obligations.EncodedEventDecodesBack :=
  fun _ h => decode_of_spelling (spelling_encode h)

/-- Settles O2: a word that decodes is spelled, and only the encoder's word spells the instruction. -/
theorem decodedEventReencodes : Obligations.DecodedEventReencodes :=
  fun _ _ h => encode_of_spelling (decode_eq_ok_iff.mp h)

end Sys2Proof.Machine

namespace Sys2Proof.Machine

/-! ## Which words are well formed (R82) -/

/-- A slot stands at every aligned offset (R44, R63). -/
theorem exists_slot_of_aligned {off : Offset} (h : off.toNat % 4 = 0) :
    ∃ slot : Slot, slot.wellFormed = true ∧ slot.offset = off := by
  obtain ⟨slot, hslot⟩ := exists_slotAt_of_aligned h
  rw [BitVec.ofNat_toNat, BitVec.setWidth_eq] at hslot
  exact ⟨slot, slotAt_some hslot⟩

/-- R82's conditions on the fields beside RSV: KIND is one of R81, and DATA and OFF are as that KIND takes them. -/
def FieldsWellFormed (data : Word) (kind : BitVec 3) (off : Offset) : Prop :=
  kind.toNat ≤ 4 ∧
  (kind.toNat = 0 → data = 0#32 ∧ off.toNat % 4 = 0) ∧
  (kind.toNat = 1 → off.toNat % 4 = 0) ∧
  (kind.toNat = 2 ∨ kind.toNat = 4 → data = 0#32 ∧ off = 0#8) ∧
  (kind.toNat = 3 → off = 0#8 ∧ data.toNat < 2 ^ 12)

theorem wordWellFormed_iff (w : EventWord) :
    WordWellFormed w ↔ rsvField w = 0#21 ∧ FieldsWellFormed (dataField w) (kindField w) (offField w) := Iff.rfl

theorem wordWellFormed_eventWord (data : Word) (kind : BitVec 3) (off : Offset) :
    WordWellFormed (eventWord data kind off) ↔ FieldsWellFormed data kind off := by
  simp [wordWellFormed_iff]

/-- The five KIND values of R81. -/
theorem kind_cases : ∀ kind : BitVec 3, kind.toNat ≤ 4 →
    kind = 0b000#3 ∨ kind = 0b001#3 ∨ kind = 0b010#3 ∨ kind = 0b011#3 ∨ kind = 0b100#3 := by decide

theorem exists_spelling_of_fieldsWellFormed {data : Word} {kind : BitVec 3} {off : Offset}
    (h : FieldsWellFormed data kind off) : ∃ i : Instr, Spelling (eventWord data kind off) i := by
  obtain ⟨hkind, hread, hwrite, hbare, hsample⟩ := h
  obtain rfl | rfl | rfl | rfl | rfl := kind_cases kind hkind
  · obtain ⟨rfl, hal⟩ := hread rfl
    obtain ⟨slot, hs, rfl⟩ := exists_slot_of_aligned hal
    exact ⟨_, .read hs⟩
  · obtain ⟨slot, hs, rfl⟩ := exists_slot_of_aligned (hwrite rfl)
    exact ⟨_, .write data hs⟩
  · obtain ⟨rfl, rfl⟩ := hbare (.inl rfl)
    exact ⟨_, .trig⟩
  · obtain ⟨rfl, hlt⟩ := hsample rfl
    rw [← setWidth_setWidth_of_lt hlt]
    exact ⟨_, .sample _⟩
  · obtain ⟨rfl, rfl⟩ := hbare (.inr rfl)
    exact ⟨_, .reset⟩

theorem wordWellFormed_of_spelling {w : EventWord} {i : Instr} (h : Spelling w i) : WordWellFormed w := by
  cases h with
  | read hs =>
    rw [readWord, wordWellFormed_eventWord]
    simp [FieldsWellFormed, offset_toNat_mod_four hs]
  | write data hs =>
    rw [writeWord, wordWellFormed_eventWord]
    simp [FieldsWellFormed, offset_toNat_mod_four hs]
  | trig =>
    rw [wordWellFormed_eventWord]
    simp [FieldsWellFormed]
  | sample v =>
    rw [wordWellFormed_eventWord]
    simp [FieldsWellFormed, -BitVec.toNat_setWidth, sample_toNat_lt]
  | reset =>
    rw [wordWellFormed_eventWord]
    simp [FieldsWellFormed]

/-- R82's conditions hold of exactly the words that decode. -/
theorem wordWellFormed_iff_decode (w : EventWord) : WordWellFormed w ↔ ∃ i : Instr, decode w = .ok i := by
  constructor
  · intro h
    obtain ⟨hrsv, hfields⟩ := (wordWellFormed_iff w).mp h
    obtain ⟨i, hi⟩ := exists_spelling_of_fieldsWellFormed hfields
    rw [eventWord_fields hrsv] at hi
    exact ⟨i, decode_of_spelling hi⟩
  · rintro ⟨i, hi⟩
    exact wordWellFormed_of_spelling (decode_eq_ok_iff.mp hi)

/-- An ill-formed word spells nothing, and the refusal names the word (R82). -/
theorem inputInstr_illFormed {w : EventWord} (h : ¬ WordWellFormed w) :
    inputInstr (.word w) = .error (.illFormedEvent w) := by
  cases hd : decode w with
  | ok i => exact absurd ((wordWellFormed_iff_decode w).mpr ⟨i, hd⟩) h
  | error e => simp [inputInstr, inputWord, hd]

/-- An address behind the window has no event word (R69). -/
theorem busWord_behind {a : BusAccess} (h : Config.base + Config.windowBytes ≤ a.addr) :
    busWord a = .error (.outsideWindow a.addr) := by
  unfold busWord
  split_ifs
  · rfl
  · rfl

/-- Settles O5: the decoder reads exactly the well-formed words; a step refuses what spells nothing; a narrow or misaligned
access is refused inside the window, and behind it as every access there. -/
theorem illFormedWordIsRefused : Obligations.IllFormedWordIsRefused := by
  refine ⟨wordWellFormed_iff_decode, fun s stamp w rest hs hw => step_refused hs (inputInstr_illFormed hw),
    fun a off haddr hbad w => ?_⟩
  by_cases hlt : off < 256
  · simp [busWord_unsupported haddr hlt hbad]
  · have hbehind : Config.base + Config.windowBytes ≤ a.addr := by
      unfold Config.windowBytes
      omega
    simp [busWord_behind hbehind]

/-! ## What each event word spells (R83, R84) -/

/-- Settles O8: CMD's slot stands at 0x00, and the DATA word is compared as a number. -/
theorem commandDecodesByWholeWord : Obligations.CommandDecodesByWholeWord := by
  intro data
  rw [decode_writeWord (slot := .cmd) rfl]
  simp [decodeWrite, decodeCommand, BitVec.toNat_eq]

/-- At SHIFTS, UPPER_NEG and the offsets 0x40 to 0x5C stand the read-only registers (R44). -/
theorem slotAt_isReadOnly : ∀ off : Offset, off.toNat % 4 = 0 →
    off = 0x08#8 ∨ off = 0x34#8 ∨ (0x40 ≤ off.toNat ∧ off.toNat ≤ 0x5C) →
    (slotAt off).any Slot.isReadOnly = true := by decide +kernel

/-- A write to the offset of a read-only register decodes to WR_RO (R83). -/
theorem decode_writeWord_readOnly {off : Offset} (h : (slotAt off).any Slot.isReadOnly = true) (data : Word) :
    ∃ slot : Slot, slot.offset = off ∧ decode (writeWord off data) = .ok (.wrRo slot data) := by
  cases hslot : slotAt off with
  | none => simp [hslot] at h
  | some slot =>
    have hro : slot.isReadOnly = true := by simpa [hslot] using h
    exact ⟨slot, (slotAt_some hslot).2, by rw [decode_writeWord hslot, decodeWrite_of_isReadOnly hro]⟩

/-- A write to a reserved offset decodes to WR_RSVD (R83). -/
theorem decode_writeWord_reserved {off : Offset} (h : isReservedOffset off = true) (data : Word) :
    decode (writeWord off data) = .ok (.wrRsvd off data) :=
  decode_writeWord (slotAt_offset (slot := .reserved off) h) data

/-- Zeros above a sample extend it to a word. -/
theorem zero_append_sample (v : Sample) : 0#20 ++ v = v.setWidth 32 := (BitVec.setWidth_eq_append (by decide)).symm

/-- A SAMPLE word with the sample in DATA[11:0] decodes to that sample (R81). -/
theorem decode_sample_append (v : Sample) : decode (0#20 ++ v ++ 0b011#3 ++ 0#21 ++ 0#8) = .ok (.sample v) := by
  rw [zero_append_sample]
  exact decode_of_spelling (.sample v)

/-- Settles O9: the slot at each offset gives the write and the read; the port events have one word each per operand. -/
theorem eventDecodesByKindAndOffset : Obligations.EventDecodesByKindAndOffset := by
  refine ⟨fun data => ?_, fun off hal => ?_, rfl, decode_sample_append, rfl⟩
  · refine ⟨decode_writeWord (slot := .status) rfl data, decode_writeWord (slot := .data .b0) rfl data,
      decode_writeWord (slot := .data .b1) rfl data, decode_writeWord (slot := .data .b2) rfl data,
      decode_writeWord (slot := .data .b3) rfl data, decode_writeWord (slot := .data .a1) rfl data,
      decode_writeWord (slot := .data .a2) rfl data, decode_writeWord (slot := .data .a3) rfl data,
      decode_writeWord (slot := .data .ref) rfl data, decode_writeWord (slot := .data .upper) rfl data,
      decode_writeWord (slot := .data .lower) rfl data, ⟨_, decode_writeWord (slot := .cmd) rfl data, rfl⟩,
      fun off hal hro => decode_writeWord_readOnly (slotAt_isReadOnly off hal hro) data,
      fun off hal hres => decode_writeWord_reserved ?_ data⟩
    simpa [isReservedOffset, hal, or_assoc] using hres
  · obtain ⟨slot, hs, rfl⟩ := exists_slot_of_aligned hal
    exact ⟨slot, rfl, decode_readWord (slotAt_offset hs)⟩

/-- Settles O4: each of the twelve words, run through the decoder. -/
theorem specEventWordsDecode : Obligations.SpecEventWordsDecode := by
  unfold Obligations.SpecEventWordsDecode
  decide

end Sys2Proof.Machine

namespace Sys2Proof.Machine

/-! ## The opcode table (R88) -/

/-! ### A row, field by field -/

theorem dataField_and (w m : EventWord) : dataField (w &&& m) = dataField w &&& dataField m := BitVec.extractLsb'_and
theorem kindField_and (w m : EventWord) : kindField (w &&& m) = kindField w &&& kindField m := BitVec.extractLsb'_and
theorem rsvField_and (w m : EventWord) : rsvField (w &&& m) = rsvField w &&& rsvField m := BitVec.extractLsb'_and
theorem offField_and (w m : EventWord) : offField (w &&& m) = offField w &&& offField m := BitVec.extractLsb'_and

/-- The four fields make up the whole word (R80). -/
theorem eq_iff_fields {w v : EventWord} :
    w = v ↔ dataField w = dataField v ∧ kindField w = kindField v ∧ rsvField w = rsvField v ∧ offField w = offField v := by
  refine ⟨by rintro rfl; exact ⟨rfl, rfl, rfl, rfl⟩, fun ⟨hd, hk, hr, ho⟩ => BitVec.eq_of_toNat_eq ?_⟩
  have hd := congrArg BitVec.toNat hd
  have hk := congrArg BitVec.toNat hk
  have hr := congrArg BitVec.toNat hr
  have ho := congrArg BitVec.toNat ho
  rw [dataField_toNat, dataField_toNat] at hd
  rw [kindField_toNat, kindField_toNat] at hk
  rw [rsvField_toNat, rsvField_toNat] at hr
  rw [offField_toNat, offField_toNat] at ho
  omega

theorem accepts_iff (row : OpcodeRow) (w : EventWord) : row.accepts w = true ↔ w &&& row.mask = row.pattern := beq_iff_eq

/-- Mask and match work on each field for itself. -/
theorem accepts_iff_fields (row : OpcodeRow) (w : EventWord) : row.accepts w = true ↔
    dataField w &&& dataField row.mask = dataField row.pattern ∧ kindField w &&& kindField row.mask = kindField row.pattern ∧
    rsvField w &&& rsvField row.mask = rsvField row.pattern ∧ offField w &&& offField row.mask = offField row.pattern := by
  rw [accepts_iff, eq_iff_fields, dataField_and, kindField_and, rsvField_and, offField_and]

/-! ### What a row accepts is well formed -/

/-- The well-formed words of each KIND of R81, as mask and match (R82). -/
def kindRows : List OpcodeRow :=
  [ ⟨"RD", 0x0000000000000000#64, 0xFFFFFFFFFFFFFF03#64⟩,
    ⟨"WR", 0x0000000020000000#64, 0x00000000FFFFFF03#64⟩,
    ⟨"TRIG", 0x0000000040000000#64, 0xFFFFFFFFFFFFFFFF#64⟩,
    ⟨"SAMPLE", 0x0000000060000000#64, 0xFFFFF000FFFFFFFF#64⟩,
    ⟨"RESET", 0x0000000080000000#64, 0xFFFFFFFFFFFFFFFF#64⟩ ]

/-- A row that fixes no fewer bits, and those alike, accepts no more words. -/
theorem accepts_of_refines {row form : OpcodeRow} {w : EventWord} (hmask : row.mask &&& form.mask = form.mask)
    (hpattern : row.pattern &&& form.mask = form.pattern) (h : row.accepts w = true) : form.accepts w = true := by
  rw [accepts_iff] at h ⊢
  rw [← hpattern, ← h, BitVec.and_assoc, hmask]

/-- Each row of the table keeps to the well-formed words of one KIND. -/
theorem opcodeRows_refine_kindRows : ∀ row ∈ opcodeRows, ∃ form ∈ kindRows,
    row.mask &&& form.mask = form.mask ∧ row.pattern &&& form.mask = form.pattern := by decide +kernel

/-- A mask of ones fixes the whole field. -/
theorem eq_of_and_allOnes {n : Nat} {x mask pattern : BitVec n} (hmask : mask = BitVec.allOnes n)
    (h : x &&& mask = pattern) : x = pattern := by
  rwa [hmask, BitVec.and_allOnes] at h

/-- The mask 0x03 on OFF asks for an aligned offset. -/
theorem aligned_of_and_mask : ∀ off : Offset, off &&& 0x03#8 = 0x00#8 → off.toNat % 4 = 0 := by decide

/-- The mask 0xFFFFF000 on DATA asks for a sample (R82 item 6). -/
theorem and_sampleMask_eq_zero_iff (data : Word) : data &&& 0xFFFFF000#32 = 0#32 ↔ data.toNat < 4096 := by
  constructor
  · intro h
    have hhigh : data.extractLsb' 12 20 &&& BitVec.allOnes 20 = 0#20 := by
      have hmask : (0xFFFFF000#32).extractLsb' 12 20 = BitVec.allOnes 20 := rfl
      rw [← hmask, ← BitVec.extractLsb'_and, h]
      rfl
    have hzero := congrArg BitVec.toNat (eq_of_and_allOnes rfl hhigh)
    simp only [BitVec.extractLsb'_toNat, Nat.shiftRight_eq_div_pow, BitVec.toNat_ofNat] at hzero
    omega
  · intro h
    have hmask : 0xFFFFF000#32 = BitVec.allOnes 20 ++ 0#12 := rfl
    rw [hmask, ← setWidth_setWidth_of_lt h, ← zero_append_sample, BitVec.and_append, BitVec.zero_and, BitVec.and_zero]
    rfl

/-- What a row of `kindRows` accepts is well formed: its ones fix whole fields, and TRIG's and RESET's the whole word. -/
theorem wordWellFormed_of_kindRow {form : OpcodeRow} (hform : form ∈ kindRows) {w : EventWord}
    (h : form.accepts w = true) : WordWellFormed w := by
  obtain ⟨hd, hk, hr, ho⟩ := (accepts_iff_fields form w).mp h
  simp only [kindRows, List.mem_cons, List.not_mem_nil, or_false] at hform
  obtain rfl | rfl | rfl | rfl | rfl := hform
  · have hkind : kindField w = 0b000#3 := eq_of_and_allOnes rfl hk
    have hdata : dataField w = 0#32 := eq_of_and_allOnes rfl hd
    have hal := aligned_of_and_mask _ ho
    exact (wordWellFormed_iff w).mpr ⟨eq_of_and_allOnes rfl hr, by simp [FieldsWellFormed, hkind, hdata, hal]⟩
  · have hkind : kindField w = 0b001#3 := eq_of_and_allOnes rfl hk
    have hal := aligned_of_and_mask _ ho
    exact (wordWellFormed_iff w).mpr ⟨eq_of_and_allOnes rfl hr, by simp [FieldsWellFormed, hkind, hal]⟩
  · have hw : w = eventWord 0#32 0b010#3 0#8 := eq_of_and_allOnes rfl ((accepts_iff _ w).mp h)
    exact hw ▸ wordWellFormed_of_spelling .trig
  · have hkind : kindField w = 0b011#3 := eq_of_and_allOnes rfl hk
    have hdata := (and_sampleMask_eq_zero_iff _).mp hd
    have hoff : offField w = 0#8 := eq_of_and_allOnes rfl ho
    exact (wordWellFormed_iff w).mpr ⟨eq_of_and_allOnes rfl hr, by simp [FieldsWellFormed, hkind, hdata, hoff]⟩
  · have hw : w = eventWord 0#32 0b100#3 0#8 := eq_of_and_allOnes rfl ((accepts_iff _ w).mp h)
    exact hw ▸ wordWellFormed_of_spelling .reset

/-- No row accepts a word that the decoder rejects (R82, R88). -/
theorem opcodeRowOf_of_decode_error {w : EventWord} {e : DecodeError} (h : decode w = .error e) : opcodeRowOf w = none := by
  refine List.find?_eq_none.mpr fun row hrow hacc => ?_
  obtain ⟨form, hform, hmask, hpattern⟩ := opcodeRows_refine_kindRows row hrow
  have hwf := wordWellFormed_of_kindRow hform (accepts_of_refines hmask hpattern hacc)
  obtain ⟨i, hi⟩ := (wordWellFormed_iff_decode w).mp hwf
  rw [h] at hi
  cases hi

/-- Two rows that accept one word agree on the bits that both fix. -/
theorem accepts_compatible {row row' : OpcodeRow} {w : EventWord} (h : row.accepts w = true) (h' : row'.accepts w = true) :
    row.pattern &&& row'.mask = row'.pattern &&& row.mask := by
  rw [accepts_iff] at h h'
  rw [← h, ← h', BitVec.and_assoc, BitVec.and_assoc, BitVec.and_comm row.mask]

/-- Only CMD_RSVD agrees with another row on the bits that both fix, with INIT and with STEP (R88). -/
theorem opcodeRows_disjoint : ∀ row ∈ opcodeRows, ∀ row' ∈ opcodeRows, row ≠ row' →
    row.pattern &&& row'.mask = row'.pattern &&& row.mask →
    (row.mnemonic = "CMD_RSVD" ∧ (row'.mnemonic = "INIT" ∨ row'.mnemonic = "STEP")) ∨
    (row'.mnemonic = "CMD_RSVD" ∧ (row.mnemonic = "INIT" ∨ row.mnemonic = "STEP")) := by decide +kernel

/-! ### The first row that accepts -/

/-- The row's mask and match on KIND, RSV and OFF, for a word whose RSV is 0. -/
def fitsLow (row : OpcodeRow) (kind : BitVec 3) (off : Offset) : Bool :=
  kind &&& kindField row.mask == kindField row.pattern && rsvField row.pattern == 0#21 &&
    off &&& offField row.mask == offField row.pattern

/-- The row's mask and match on DATA. -/
def fitsData (data : Word) (row : OpcodeRow) : Bool := data &&& dataField row.mask == dataField row.pattern

theorem accepts_eventWord (row : OpcodeRow) (data : Word) (kind : BitVec 3) (off : Offset) :
    row.accepts (eventWord data kind off) = (fitsLow row kind off && fitsData data row) := by
  rw [Bool.eq_iff_iff, accepts_iff_fields]
  simp only [fitsLow, fitsData, Bool.and_eq_true, beq_iff_eq, dataField_eventWord, kindField_eventWord, rsvField_eventWord,
    offField_eventWord, BitVec.zero_and, eq_comm (a := 0#21)]
  tauto

/-- The rows that KIND and OFF leave, in the table's order. -/
def rowsOf (kind : BitVec 3) (off : Offset) : List OpcodeRow := opcodeRows.filter (fun row => fitsLow row kind off)

/-- Of the rows that KIND and OFF leave, DATA chooses the first that fits. -/
theorem opcodeRowOf_eventWord (data : Word) (kind : BitVec 3) (off : Offset) :
    opcodeRowOf (eventWord data kind off) = (rowsOf kind off).find? (fitsData data) := by
  simp [opcodeRowOf, rowsOf, accepts_eventWord, List.find?_filter]

/-- The table's one row for a read fits at every aligned offset. -/
theorem rowsOf_read : ∀ off : Offset, off.toNat % 4 = 0 →
    rowsOf 0b000#3 off = [⟨"RD", 0x0000000000000000#64, 0xFFFFFFFFFFFFFF03#64⟩] := by decide +kernel

/-- At every offset but CMD's one row fits a write, with the mnemonic of the slot there and any DATA. -/
theorem rowsOf_write : ∀ off : Offset, off ≠ 0x00#8 → ∀ slot ∈ slotAt off,
    (rowsOf 0b001#3 off).map (fun row => (row.mnemonic, dataField row.mask, dataField row.pattern)) =
      [((decodeWrite slot 0#32).mnemonic, 0#32, 0#32)] := by decide +kernel

theorem rowsOf_command : rowsOf 0b001#3 0x00#8 =
    [⟨"INIT", 0x0000000120000000#64, 0xFFFFFFFFFFFFFFFF#64⟩, ⟨"STEP", 0x0000000220000000#64, 0xFFFFFFFFFFFFFFFF#64⟩,
      ⟨"CMD_RSVD", 0x0000000020000000#64, 0x00000000FFFFFFFF#64⟩] := by decide +kernel

theorem rowsOf_sample : rowsOf 0b011#3 0x00#8 = [⟨"SAMPLE", 0x0000000060000000#64, 0xFFFFF000FFFFFFFF#64⟩] := by
  decide +kernel

/-! ### The row of a spelled word -/

/-- Beside CMD, the DATA of a write does not choose its instruction (R83). -/
theorem decodeWrite_mnemonic {slot : Slot} (h : slot ≠ .cmd) (data data' : Word) :
    (decodeWrite slot data).mnemonic = (decodeWrite slot data').mnemonic := by
  cases slot with
  | cmd => exact absurd rfl h
  | data r => cases r <;> rfl
  | status => rfl
  | shifts => rfl
  | reserved off => rfl

/-- A row whose mask leaves DATA free fits every DATA. -/
theorem fitsData_of_free {row : OpcodeRow} (hmask : dataField row.mask = 0#32) (hpattern : dataField row.pattern = 0#32)
    (data : Word) : fitsData data row = true := by
  simp [fitsData, hmask, hpattern]

/-- The table reads a write to any slot but CMD as the decoder does. -/
theorem opcodeRowOf_write {slot : Slot} (hs : slot.wellFormed = true) (hc : slot ≠ .cmd) (data : Word) :
    (opcodeRowOf (writeWord slot.offset data)).map (fun row => row.mnemonic) = some (decodeWrite slot data).mnemonic := by
  have hoff : slot.offset ≠ 0x00#8 := by
    intro h0
    have hslot := slotAt_offset hs
    rw [h0] at hslot
    cases hslot
    exact hc rfl
  have hrows := rowsOf_write slot.offset hoff slot (slotAt_offset hs)
  obtain ⟨row, hrow, hfit⟩ := List.map_eq_singleton_iff.mp hrows
  simp only [Prod.mk.injEq] at hfit
  obtain ⟨hmnemonic, hmask, hpattern⟩ := hfit
  rw [writeWord, opcodeRowOf_eventWord, hrow, List.find?_cons_of_pos (fitsData_of_free hmask hpattern data), Option.map_some,
    hmnemonic, decodeWrite_mnemonic hc]

/-- The table reads a write to CMD as the decoder does: INIT and STEP come before CMD_RSVD (R84, R88). -/
theorem opcodeRowOf_command (data : Word) :
    (opcodeRowOf (writeWord 0x00#8 data)).map (fun row => row.mnemonic) = some (decodeCommand data).mnemonic := by
  unfold decodeCommand
  split_ifs with h1 h2
  · subst h1
    decide +kernel
  · subst h2
    decide +kernel
  · have hinit : ¬ fitsData data ⟨"INIT", 0x0000000120000000#64, 0xFFFFFFFFFFFFFFFF#64⟩ = true :=
      fun hfit => h1 (eq_of_and_allOnes rfl (beq_iff_eq.mp hfit))
    have hstep : ¬ fitsData data ⟨"STEP", 0x0000000220000000#64, 0xFFFFFFFFFFFFFFFF#64⟩ = true :=
      fun hfit => h2 (eq_of_and_allOnes rfl (beq_iff_eq.mp hfit))
    rw [writeWord, opcodeRowOf_eventWord, rowsOf_command, List.find?_cons_of_neg hinit, List.find?_cons_of_neg hstep,
      List.find?_cons_of_pos (fitsData_of_free rfl rfl data)]
    rfl

/-- The table reads every word that decodes as the decoder does (R88). -/
theorem opcodeRowOf_spelling {w : EventWord} {i : Instr} (h : Spelling w i) :
    (opcodeRowOf w).map (fun row => row.mnemonic) = some i.mnemonic := by
  cases h with
  | read hs =>
    rw [readWord, opcodeRowOf_eventWord, rowsOf_read _ (offset_toNat_mod_four hs)]
    rfl
  | @write slot data hs =>
    by_cases hc : slot = .cmd
    · subst hc
      exact opcodeRowOf_command data
    · exact opcodeRowOf_write hs hc data
  | trig => decide +kernel
  | sample v =>
    have hfit : fitsData (v.setWidth 32) ⟨"SAMPLE", 0x0000000060000000#64, 0xFFFFF000FFFFFFFF#64⟩ = true :=
      beq_iff_eq.mpr ((and_sampleMask_eq_zero_iff _).mpr (sample_toNat_lt v))
    rw [opcodeRowOf_eventWord, rowsOf_sample, List.find?_cons_of_pos hfit]
    rfl
  | reset => decide +kernel

/-- CMD_RSVD's row leaves DATA free (R88). -/
theorem commandRow_accepts (data : Word) :
    (⟨"CMD_RSVD", 0x0000000020000000#64, 0x00000000FFFFFFFF#64⟩ : OpcodeRow).accepts (writeWord 0x00#8 data) = true := by
  rw [writeWord, accepts_eventWord, fitsData_of_free rfl rfl, Bool.and_true]
  rfl

/-- Settles O3: the table reads what is spelled, its rows accept only well-formed words, and two rows that accept one word
agree on the bits that both fix, which only CMD_RSVD does with INIT and STEP. -/
theorem opcodeTableDecidesTheInstruction : Obligations.OpcodeTableDecidesTheInstruction := by
  refine ⟨fun w i h => opcodeRowOf_spelling (decode_eq_ok_iff.mp h), fun w e h => opcodeRowOf_of_decode_error h,
    fun w row row' hrow hrow' hne h h' => opcodeRows_disjoint row hrow row' hrow' hne (accepts_compatible h h'),
    ⟨_, ?_, rfl, commandRow_accepts⟩⟩
  simp [opcodeRows]

end Sys2Proof.Machine

namespace Sys2Proof.Machine

/-! ## A transcript line and its fields (R90) -/

/-- The field holds no separator and no comment mark, and is not empty. -/
def FieldText (f : List Char) : Prop := f ≠ [] ∧ ∀ c ∈ f, c ∉ separators ∧ c ≠ ';'

/-- The non-empty fields of a text without a comment. -/
def nonEmptyFields (cs : List Char) : List (List Char) := (fieldsOf cs).filter (fun f => !f.isEmpty)

theorem tokensOf_eq (line : List Char) : tokensOf line = nonEmptyFields (withoutComment line) := rfl

theorem fieldsOf_separator {c : Char} (h : c ∈ separators) (cs : List Char) : fieldsOf (c :: cs) = [] :: fieldsOf cs := by
  simp [fieldsOf, h]

/-- Any other character begins the first field of what follows. -/
theorem fieldsOf_cons {c : Char} (h : c ∉ separators) {cs f : List Char} {fs : List (List Char)}
    (hcs : fieldsOf cs = f :: fs) : fieldsOf (c :: cs) = (c :: f) :: fs := by
  simp [fieldsOf, h, hcs]

/-- A separator ends the field before it. -/
theorem fieldsOf_append_separator {f : List Char} (hf : ∀ c ∈ f, c ∉ separators) {c : Char} (hc : c ∈ separators)
    (cs : List Char) : fieldsOf (f ++ c :: cs) = f :: fieldsOf cs := by
  induction f with
  | nil => exact fieldsOf_separator hc cs
  | cons a f ih =>
    obtain ⟨ha, hf⟩ := List.forall_mem_cons.mp hf
    exact fieldsOf_cons ha (ih hf)

/-- A text without a separator is one field. -/
theorem fieldsOf_of_no_separator {f : List Char} (hne : f ≠ []) (hf : ∀ c ∈ f, c ∉ separators) : fieldsOf f = [f] := by
  induction f with
  | nil => exact absurd rfl hne
  | cons a f ih =>
    obtain ⟨ha, hf⟩ := List.forall_mem_cons.mp hf
    cases f with
    | nil => simp [fieldsOf, ha]
    | cons b f => exact fieldsOf_cons ha (ih (List.cons_ne_nil b f) hf)

/-- Separators in front of a text add only empty fields. -/
theorem nonEmptyFields_gap_append {gap : List Char} (hgap : ∀ c ∈ gap, c ∈ separators) (cs : List Char) :
    nonEmptyFields (gap ++ cs) = nonEmptyFields cs := by
  induction gap with
  | nil => rfl
  | cons c gap ih =>
    obtain ⟨hc, hgap⟩ := List.forall_mem_cons.mp hgap
    rw [← ih hgap]
    simp [nonEmptyFields, fieldsOf_separator hc]

/-- A field and the gap behind it. -/
theorem nonEmptyFields_field_gap {f gap : List Char} (hf : FieldText f) (hne : gap ≠ [])
    (hgap : ∀ c ∈ gap, c ∈ separators) (cs : List Char) :
    nonEmptyFields (f ++ gap ++ cs) = f :: nonEmptyFields cs := by
  obtain ⟨hfne, hchars⟩ := hf
  rw [← nonEmptyFields_gap_append hgap cs]
  cases gap with
  | nil => exact absurd rfl hne
  | cons c gap =>
    obtain ⟨hc, hgap⟩ := List.forall_mem_cons.mp hgap
    simp [nonEmptyFields, fieldsOf_append_separator (fun a ha => (hchars a ha).1) hc, fieldsOf_separator hc, hfne]

/-- Fields joined by gaps are read back (log 19). -/
theorem nonEmptyFields_intercalate {gap : List Char} (hne : gap ≠ []) (hgap : ∀ c ∈ gap, c ∈ separators)
    {fields : List (List Char)} (h : ∀ f ∈ fields, FieldText f) : nonEmptyFields (gap.intercalate fields) = fields := by
  induction fields with
  | nil => rfl
  | cons f fields ih =>
    obtain ⟨hf, hfields⟩ := List.forall_mem_cons.mp h
    cases fields with
    | nil =>
      rw [List.intercalate_singleton]
      simp [nonEmptyFields, fieldsOf_of_no_separator hf.1 (fun c hc => (hf.2 c hc).1), hf.1]
    | cons g fields =>
      rw [List.intercalate_cons_cons, nonEmptyFields_field_gap hf hne hgap, ih hfields]

/-- No separator is the comment mark. -/
theorem separator_ne_comment : ∀ c ∈ separators, c ≠ ';' := by simp [separators]

/-- Joined fields hold no comment mark. -/
theorem intercalate_no_comment {gap : List Char} (hgap : ∀ c ∈ gap, c ∈ separators) {fields : List (List Char)}
    (h : ∀ f ∈ fields, FieldText f) : ∀ c ∈ gap.intercalate fields, c ≠ ';' := by
  induction fields with
  | nil => simp
  | cons f fields ih =>
    obtain ⟨hf, hfields⟩ := List.forall_mem_cons.mp h
    cases fields with
    | nil =>
      rw [List.intercalate_singleton]
      exact fun c hc => (hf.2 c hc).2
    | cons g fields =>
      rw [List.intercalate_cons_cons]
      simp only [List.forall_mem_append]
      exact ⟨⟨fun c hc => (hf.2 c hc).2, fun c hc => separator_ne_comment c (hgap c hc)⟩, ih hfields⟩

theorem withoutComment_of_no_comment {cs : List Char} (h : ∀ c ∈ cs, c ≠ ';') : withoutComment cs = cs :=
  List.takeWhile_eq_self_iff.mpr (by simpa using h)

/-- A comment is cut off (R90). -/
theorem withoutComment_comment {cs : List Char} (h : ∀ c ∈ cs, c ≠ ';') (comment : List Char) :
    withoutComment (cs ++ ';' :: comment) = cs := by
  unfold withoutComment
  rw [List.takeWhile_append_of_pos (by simpa using h)]
  simp

/-! ## Operands (R90, R91) -/

/-- A register name reads as its offset (R44). -/
theorem parseReg_registerNames : ∀ p ∈ registerNames, parseReg p.1 = some p.2 := by decide

/-- Every run of digits ends below 16 (R90). -/
theorem digitRuns_end_le : ∀ run ∈ digitRuns, run.value + run.count ≤ 16 := by decide

/-- A digit of a run is one of its `count` first characters. -/
theorem offset_lt_count_of_holds {run : DigitRun} {c : Char} (h : run.holds c = true) :
    c.toNat - run.start.toNat < run.count := by
  simp only [DigitRun.holds, Bool.and_eq_true, Nat.ble_eq, Nat.blt_eq] at h
  omega

/-- A digit is worth less than 16. -/
theorem digitValue_lt {c : Char} {d : Nat} (h : digitValue c = some d) : d < 16 := by
  simp only [digitValue, Option.map_eq_some_iff] at h
  obtain ⟨run, hfind, rfl⟩ := h
  have hholds : run.holds c = true := by simpa using List.find?_some hfind
  have hcount := offset_lt_count_of_holds hholds
  have hend := digitRuns_end_le run (List.mem_of_find?_eq_some hfind)
  omega

/-- A raw offset of two hex digits (R90). -/
theorem parseReg_raw {hi lo : Char} {h l : Nat} (hhi : digitValue hi = some h) (hlo : digitValue lo = some l) :
    parseReg ['@', '0', 'x', hi, lo] = some (BitVec.ofNat 8 (16 * h + l)) := by
  have hraw : parseReg ['@', '0', 'x', hi, lo] = (numberValue 16 [hi, lo]).map (BitVec.ofNat 8) := rfl
  rw [hraw]
  simp [numberValue, digitsValue, hhi, hlo, digitValue_lt hhi, digitValue_lt hlo, Nat.mul_comm]

theorem parseWord_of_parseValue {v : List Char} {x : Int} (hv : parseValue v = some x) : parseWord v = some (u32 x) := by
  simp [parseWord, hv]

theorem parseSample_of_range {v : List Char} {x : Int} (hv : parseValue v = some x) (h : 0 ≤ x ∧ x < 4096) :
    parseSample v = some (BitVec.ofInt 12 x) := by
  simp only [parseSample, hv, if_pos h]

theorem parseSample_out_of_range {v : List Char} {x : Int} (hv : parseValue v = some x) (h : ¬ (0 ≤ x ∧ x < 4096)) :
    parseSample v = none := by
  simp only [parseSample, hv, if_neg h]

/-- Every data register has a name (R44). -/
theorem dataReg_named (r : DataReg) : ∃ name : List Char, (name, r.offset) ∈ registerNames := by
  have hoff : r.offset ∈ registerNames.map Prod.snd := by cases r <;> decide
  simpa using hoff

/-! ## Lines, mnemonic by mnemonic (R90 to R92) -/

theorem assembleTokens_rd (reg : List Char) :
    assembleTokens [['R', 'D'], reg] = (parseReg reg).map (fun off => [readWord off]) := rfl

theorem assembleTokens_wr {reg v : List Char} {off : Offset} {data : Word} (h : parseReg reg = some off)
    (hv : parseWord v = some data) : assembleTokens [['W', 'R'], reg, v] = some [writeWord off data] := by
  have harm : assembleTokens [['W', 'R'], reg, v] = match parseReg reg, parseWord v with
    | some off, some data => some [writeWord off data]
    | _, _ => none := rfl
  rw [harm, h, hv]

theorem assembleTokens_sample (v : List Char) :
    assembleTokens [['S', 'A', 'M', 'P', 'L', 'E'], v] = (parseSample v).map (fun x => [encode (.sample x)]) := rfl

theorem assembleTokens_tick (v : List Char) :
    assembleTokens [['T', 'I', 'C', 'K'], v] = (parseSample v).map (fun x => (tickEvents x).map encode) := rfl

theorem assembleTokens_config (args : List (List Char)) :
    assembleTokens (['C', 'O', 'N', 'F', 'I', 'G'] :: args) =
      (parseConfig args).map (fun c => (configEvents c).map encode) := rfl

/-- Settles O57: a line's fields are read back from it, and each mnemonic's arm of the assembler gets the operand's value. -/
theorem linesAssembleToTheirEvents : Obligations.LinesAssembleToTheirEvents := by
  refine ⟨fun fields gap comment hfields hne hgap => ?_, fun name off hname => ?_, fun slot hwf hres => ?_,
    fun v x hv => ⟨fun hx => ?_, fun hx => ?_⟩, rfl, rfl, rfl, rfl⟩
  · have hline := nonEmptyFields_intercalate hne hgap hfields
    have hmark := intercalate_no_comment hgap hfields
    simp only [assembleLine, tokensOf_eq, withoutComment_of_no_comment hmark, withoutComment_comment hmark, hline, and_self]
  · have hreg : parseReg name = some off := by
      obtain hmem | ⟨hi, lo, h, l, rfl, hhi, hlo, rfl⟩ := hname
      · exact parseReg_registerNames _ hmem
      · exact parseReg_raw hhi hlo
    exact ⟨by rw [assembleTokens_rd, hreg, Option.map_some],
      fun v x hv => assembleTokens_wr hreg (parseWord_of_parseValue hv)⟩
  · cases slot with
    | cmd => exact ⟨['C', 'M', 'D'], by decide⟩
    | status => exact ⟨['S', 'T', 'A', 'T', 'U', 'S'], by decide⟩
    | shifts => exact ⟨['S', 'H', 'I', 'F', 'T', 'S'], by decide⟩
    | data r => exact dataReg_named r
    | reserved off => exact absurd rfl (hres off)
  · refine ⟨BitVec.ofInt 12 x, ?_, by rw [assembleTokens_sample, parseSample_of_range hv hx, Option.map_some]⟩
    rw [BitVec.toNat_ofInt]
    omega
  · rw [assembleTokens_sample, parseSample_out_of_range hv hx, Option.map_none]

/-- Ten words read from ten operands make up a configuration (R92). -/
theorem parseConfig_ten {b0 b1 b2 b3 a1 a2 a3 ref upper lower : List Char} {c : ConfigWords}
    (hb0 : parseWord b0 = some c.b0) (hb1 : parseWord b1 = some c.b1) (hb2 : parseWord b2 = some c.b2)
    (hb3 : parseWord b3 = some c.b3) (ha1 : parseWord a1 = some c.a1) (ha2 : parseWord a2 = some c.a2)
    (ha3 : parseWord a3 = some c.a3) (href : parseWord ref = some c.ref) (hupper : parseWord upper = some c.upper)
    (hlower : parseWord lower = some c.lower) :
    parseConfig [b0, b1, b2, b3, a1, a2, a3, ref, upper, lower] = some c := by
  simp [parseConfig, hb0, hb1, hb2, hb3, ha1, ha2, ha3, href, hupper, hlower]

/-- Accepted inputs expand to the writes of their words, then INIT (R92). -/
theorem assembleInitialize_ok {x : InitializerInputs} {c : ConfigWords} (h : quantize x = .ok c) :
    assembleInitialize x = some ((configEvents c ++ [Instr.init]).map encode) := by
  delta assembleInitialize initializerEvents
  rw [h]

/-- Inputs that the quantizer refuses expand to nothing (R113). -/
theorem assembleInitialize_error {x : InitializerInputs} {r : Refusal} (h : quantize x = .error r) :
    assembleInitialize x = none := by
  delta assembleInitialize initializerEvents
  rw [h]

/-- Settles O59: each pseudo-instruction's arm of the assembler, with its operands read. -/
theorem pseudoInstructionsExpand : Obligations.PseudoInstructionsExpand := by
  refine ⟨fun v sample hv => ?_, rfl, ?_, fun x c hq => ?_, fun x r hq => assembleInitialize_error hq⟩
  · have hrange : 0 ≤ (sample.toNat : Int) ∧ (sample.toNat : Int) < 4096 := by
      have hlt := sample.isLt
      omega
    rw [assembleTokens_tick, parseSample_of_range hv hrange, BitVec.ofInt_natCast, BitVec.ofNat_toNat, BitVec.setWidth_eq]
    rfl
  · intro b0 b1 b2 b3 a1 a2 a3 ref upper lower c hb0 hb1 hb2 hb3 ha1 ha2 ha3 href hupper hlower
    rw [assembleTokens_config, parseConfig_ten hb0 hb1 hb2 hb3 ha1 ha2 ha3 href hupper hlower]
    rfl
  · rw [assembleInitialize_ok hq, List.map_append]
    rfl

end Sys2Proof.Machine

namespace Sys2Proof.Machine

/-! ## Fixed-point formats (R100 to R108) -/

/-- A 32-bit accumulator fits its format wherever the binary point stands (R100, R102). -/
theorem fits_of_inWord {v : Int} (h : InWord v) (n : Nat) : FixedPointFormat.fits ⟨32, n⟩ v = true := by
  obtain ⟨hlo, hhi⟩ := h
  exact (fits_iff _ _).mpr ⟨hlo, Int.le_sub_one_of_lt hhi⟩

/-- Rescaling by `s` bits takes `s` bits off the width: t + 1 + s bits shifted right by s fit t + 1 (R102, R105). -/
theorem fits_rescale {t s n : Nat} {v : Int} (h : FixedPointFormat.fits ⟨t + 1 + s, n + s⟩ v = true) :
    FixedPointFormat.fits ⟨t + 1, n⟩ (rescale v (n + s) n) = true := by
  have hpos : (0 : Int) < 2 ^ s := by positivity
  obtain ⟨hlo, hhi⟩ : -(2 ^ t * 2 ^ s : Int) ≤ v ∧ v ≤ 2 ^ t * 2 ^ s - 1 := by
    simpa [fits_iff, show t + 1 + s - 1 = t + s by omega, pow_add] using h
  rw [fits_iff, rescale, Nat.add_sub_cancel_left]
  exact ⟨Int.le_ediv_of_mul_le hpos (by rwa [Nat.add_sub_cancel, neg_mul]),
    Int.le_sub_one_of_lt (Int.ediv_lt_of_lt_mul hpos (Int.lt_of_le_sub_one hhi))⟩

/-- The FB port's 12 unsigned bits fit the signed Q(12,0) (R100). -/
theorem sample_fits (fb : Sample) : sampleFormat.fits (fb.toNat : Int) = true := by
  have hlt : fb.toNat < 2 ^ 12 := fb.isLt
  rw [fits_iff]
  change -(2 ^ 12 : Int) ≤ fb.toNat ∧ (fb.toNat : Int) ≤ 2 ^ 12 - 1
  omega

theorem feedBackStage_inWord (x : RegFile Word) : InWord (feedBackStage x).1 := by
  rw [feedBackStage_sum]
  exact wrap32_inWord _

theorem feedForwardStage_inWord (fb : Sample) (acc : Int) (x : RegFile Word) :
    InWord (feedForwardStage fb acc x).1 := by
  rw [feedForwardStage_sum]
  exact wrap32_inWord _

/-- The fine duty value is the signed word's residue modulo 2^8 (R108). -/
theorem fineDuty_toNat (w : Word) : ((fineDuty w).toNat : Int) = s32 w % 256 := by
  have hlow : (fineDuty w).toNat = w.toNat % 256 := by simp [fineDuty]
  rw [hlow, s32, BitVec.toInt_eq_toNat_cond]
  split
  · rfl
  · omega

/-- Settles O16: the coarse value is the quotient by 256 and the fine one the remainder. -/
theorem dutySplitIsExact : Obligations.DutySplitIsExact := by
  refine fun w => ⟨?_, rfl, rfl⟩
  calc s32 w = 256 * (s32 w / 256) + s32 w % 256 := (Int.mul_ediv_add_emod _ _).symm
    _ = 256 * asr (s32 w) 8 + (fineDuty w).toNat := by rw [fineDuty_toNat]; rfl

/-- Settles O58: both sums are 32-bit values, SHIFT_B takes its 11 bits off the second, and the table's formats and shifts
are closed facts. -/
theorem tickValuesFitTheirFormats : Obligations.TickValuesFitTheirFormats := by
  refine ⟨fun x fb acc => ⟨?_, ?_, ?_, sample_fits fb⟩, by decide⟩
  · rintro _ ⟨⟩
    exact fits_of_inWord (feedBackStage_inWord x) 22
  · rintro _ ⟨⟩
    exact fits_of_inWord (feedForwardStage_inWord fb acc x) 19
  · rintro _ ⟨⟩
    exact fits_rescale (t := 20) (s := 11) (n := 8) (fits_of_inWord (feedForwardStage_inWord fb acc x) 19)

end Sys2Proof.Machine

namespace Sys2Proof.Machine

/-! ## The ten configuration registers and their words (R111, R118) -/

/-- The word a configuration gives a register; a register the host cannot write gets none. -/
def ConfigWords.word (c : ConfigWords) : DataReg → Word
  | .b0 => c.b0
  | .b1 => c.b1
  | .b2 => c.b2
  | .b3 => c.b3
  | .a1 => c.a1
  | .a2 => c.a2
  | .a3 => c.a3
  | .ref => c.ref
  | .upper => c.upper
  | .lower => c.lower
  | .upperNeg | .e0 | .e1 | .e2 | .e3 | .u0 | .u1 | .u2 | .lastOut => 0#32

/-- The configuration that takes each of its words from a function of the register. -/
def configWordsOf (f : DataReg → Word) : ConfigWords :=
  ⟨f .b0, f .b1, f .b2, f .b3, f .a1, f .a2, f .a3, f .ref, f .upper, f .lower⟩

theorem word_configWordsOf (f : DataReg → Word) : ∀ r ∈ configRegs, (configWordsOf f).word r = f r := by
  simp [configRegs, ConfigWords.word, configWordsOf]

/-- INIT checks exactly the registers a host write can load (R44, R118). -/
theorem isConfig_of_mem_configRegs : ∀ r ∈ configRegs, r.isConfig = true := by decide

/-- Beside LAST_OUT there are UPPER_NEG, the history and the configuration (R21). -/
theorem dataReg_cases {r : DataReg} (h : r ≠ .lastOut) : r = .upperNeg ∨ r ∈ historyRegs ∨ r ∈ configRegs := by
  cases r <;> revert h <;> decide

/-- The event that writes a register's word (R83, R92). -/
def ConfigWords.event (c : ConfigWords) (r : DataReg) : Instr := decodeDataWrite r (c.word r)

/-- CONFIG writes each configuration register once, in the order INIT checks them (R92, R118). -/
theorem configEvents_eq_map (c : ConfigWords) : configEvents c = configRegs.map c.event := rfl

/-! ## The quantizer (R113, R115, R116) -/

/-- A computation in two parts answers when both do. -/
theorem except_bind_eq_ok_iff {ε α β : Type} {a : Except ε α} {f : α → Except ε β} {b : β} :
    (a >>= f) = .ok b ↔ ∃ v, a = .ok v ∧ f v = .ok b := by
  cases a with
  | error e => simp [bind, Except.bind]
  | ok v => simp [bind, Except.bind]

/-- The quantizer answers the words that it answers register by register. -/
theorem quantize_eq_ok_iff {x : InitializerInputs} {c : ConfigWords} :
    quantize x = .ok c ↔ ∀ r ∈ configRegs, quantizedWord x r = .ok (c.word r) := by
  simp only [quantize, except_bind_eq_ok_iff, configRegs, List.forall_mem_cons]
  constructor
  · rintro ⟨b0, h0, b1, h1, b2, h2, b3, h3, a1, h4, a2, h5, a3, h6, ref, h7, upper, h8, lower, h9, ⟨⟩⟩
    exact ⟨h0, h1, h2, h3, h4, h5, h6, h7, h8, h9, by simp⟩
  · rintro ⟨h0, h1, h2, h3, h4, h5, h6, h7, h8, h9, -⟩
    exact ⟨_, h0, _, h1, _, h2, _, h3, _, h4, _, h5, _, h6, _, h7, _, h8, _, h9, rfl⟩

/-- Settles O18: the quantizer answers exactly when every register does, and a register does exactly when its value fits. -/
theorem quantizedWordsHoldTheirValues : Obligations.QuantizedWordsHoldTheirValues := by
  refine ⟨fun x c hq => ?_, fun x hfit => ?_, fun x r _ _ hbig => if_neg hbig⟩
  · have hvalue : ∀ r ∈ configRegs, s32 (c.word r) = quantizedValue x r :=
      fun r hr => (registerWord_ok (quantize_eq_ok_iff.mp hq r hr)).2
    exact ⟨hvalue .b0 (by decide), hvalue .b1 (by decide), hvalue .b2 (by decide), hvalue .b3 (by decide),
      hvalue .a1 (by decide), hvalue .a2 (by decide), hvalue .a3 (by decide), hvalue .ref (by decide),
      hvalue .upper (by decide), hvalue .lower (by decide)⟩
  · refine ⟨configWordsOf fun r => u32 (quantizedValue x r), quantize_eq_ok_iff.mpr fun r hr => ?_⟩
    rw [word_configWordsOf _ r hr]
    exact registerWord_of_inWord r (hfit r hr)

/-! ## A configuration write (R111, R200) -/

/-- What `setErr` leaves is the state of an interface error (R200). -/
theorem afterError_setErr (code : BitVec 4) (s : State) : afterError code s (setErr code s) :=
  ⟨fun h => by simp [setErr, h], fun h => by simp [setErr, h]⟩

/-- Outside a STEP window a configuration write completes; what it does is the mode's to decide. -/
theorem exec_configWrite {r : DataReg} (hr : r.isConfig = true) {s : State} (hi : stepInProgress s = false)
    (data : Word) : exec (decodeDataWrite r data) s = .next (writeConfig r data s) := by
  rw [exec_decodeDataWrite hr, whenIdle_idle hi]

/-- Settles O29: the slot at the offset gives the write, and the mode decides what it does. -/
theorem configurationWriteLoadsOrIsLocked : Obligations.ConfigurationWriteLoadsOrIsLocked := by
  refine fun r data hr => ⟨decode_writeWord (slotAt_offset (slot := .data r) rfl) data, fun s hi => ?_⟩
  refine ⟨writeConfig r data s, exec_configWrite hr hi data, fun hm => ?_, fun hm => ?_⟩
  · rw [writeConfig_uninit hm]
    exact ⟨rfl, fun q => get_set s.regs r q data, fun q => get_set s.written r q true⟩
  · rw [writeConfig_initialized hm]
    exact afterError_setErr errLocked s

/-! ## INIT (R118, R119) -/

/-- The first register without a value is the one behind registers that all hold one (R22). -/
theorem firstUnwritten_append_cons {s : State} {before : List DataReg} (hb : ∀ q ∈ before, s.written.get q = true)
    {r : DataReg} (hr : s.written.get r = false) (after : List DataReg) :
    firstUnwritten s (before ++ r :: after) = some r := by
  have hnone : before.find? (fun q => !s.written.get q) = none := firstUnwritten_none hb
  simp [firstUnwritten, List.find?_append, hnone, hr]

/-- Outside a STEP window INIT faults with the first configuration register that holds no value (R119). -/
theorem exec_init_missing {s : State} (hi : stepInProgress s = false) {r : DataReg}
    (h : firstUnwritten s configRegs = some r) : exec .init s = .fault (.initUnconfigured r) := by
  simp [exec, execInit, whenIdle_idle hi, h]

/-- INIT leaves every history register with a value (R118). -/
theorem commitInit_history_held (s : State) {r : DataReg} (h : r ∈ historyRegs) :
    (commitInit s).written.get r = true := by
  rw [commitInit_held, if_neg (historyRegs_no_configuration r h).1, if_pos h]

/-- INIT moves no register but the history and UPPER_NEG (R118). -/
theorem commitInit_other (s : State) {r : DataReg} (hh : r ∉ historyRegs) (hn : r ≠ .upperNeg) :
    (commitInit s).regs.get r = s.regs.get r ∧ (commitInit s).written.get r = s.written.get r := by
  simp only [commitInit_get, commitInit_held, if_neg hn, if_neg hh, and_self]

/-- Settles O30: INIT's answer is the committed configuration, register by register. -/
theorem initCommitsTheConfiguration : Obligations.InitCommitsTheConfiguration := by
  refine ⟨by decide, fun s r hi h => exec_init_missing hi h, fun s hi hc => ?_⟩
  refine ⟨commitInit s, execInit_ready hi hc, rfl,
    fun r hr => ⟨commitInit_history s hr, commitInit_history_held s hr⟩, ?_, ?_,
    fun r hh hn => commitInit_other s hh hn⟩
  · rw [commitInit_get, if_pos rfl, negatedUpper, s32_u32, wrap32_wrap32]
  · rw [commitInit_held, if_pos rfl]

/-- Settles O31: R118's order is the list INIT searches. -/
theorem initNeedsTheWholeConfiguration : Obligations.InitNeedsTheWholeConfiguration := by
  intro s before after r hi horder hb hr
  have hfirst : firstUnwritten s configRegs = some r := by
    rw [configRegs, horder]
    exact firstUnwritten_append_cons hb hr after
  exact exec_init_missing hi hfirst

/-- After INIT every register but LAST_OUT is a function of the configuration words (R118, R120). -/
theorem commitInit_congr {s s' : State} (h : ∀ r ∈ configRegs, s.regs.get r = s'.regs.get r) {r : DataReg}
    (hr : r ≠ .lastOut) : (commitInit s).regs.get r = (commitInit s').regs.get r := by
  obtain rfl | hh | hc := dataReg_cases hr
  · rw [commitInit_get, commitInit_get, if_pos rfl, if_pos rfl, h .upper (by decide)]
  · rw [commitInit_history s hh, commitInit_history s' hh]
  · have hcfg := isConfig_of_mem_configRegs r hc
    rw [(commitInit_config hcfg s).1, (commitInit_config hcfg s').1, h r hc]

/-! ## The ten writes in any order (R120) -/

/-- The register file after a configuration's words are loaded into the registers of a list. -/
def loadRegs (c : ConfigWords) (rs : List DataReg) (x : RegFile Word) : RegFile Word :=
  rs.foldl (fun y r => y.set r (c.word r)) x

theorem get_loadRegs (c : ConfigWords) (rs : List DataReg) (x : RegFile Word) (q : DataReg) :
    (loadRegs c rs x).get q = if q ∈ rs then c.word q else x.get q := by
  induction rs generalizing x with
  | nil => simp [loadRegs]
  | cons r rs ih =>
    have hcons : loadRegs c (r :: rs) x = loadRegs c rs (x.set r (c.word r)) := rfl
    rw [hcons, ih, get_set]
    by_cases hq : q = r
    · simp [hq]
    · simp [hq]

/-- The state after the configuration writes of a list of registers, in UNINIT. -/
def loadConfig (c : ConfigWords) (rs : List DataReg) (s : State) : State :=
  { s with regs := loadRegs c rs s.regs, written := s.written.setAll rs true }

theorem loadConfig_word (c : ConfigWords) {rs : List DataReg} (s : State) :
    ∀ r ∈ rs, (loadConfig c rs s).regs.get r = c.word r :=
  fun r hr => (get_loadRegs c rs s.regs r).trans (if_pos hr)

theorem loadConfig_held (c : ConfigWords) {rs : List DataReg} (s : State) :
    ∀ r ∈ rs, (loadConfig c rs s).written.get r = true :=
  fun r hr => (get_setAll s.written rs true r).trans (if_pos hr)

/-- Only which registers are loaded counts, not their order. -/
theorem loadConfig_perm (c : ConfigWords) {rs rs' : List DataReg} (h : rs.Perm rs') (s : State) :
    loadConfig c rs s = loadConfig c rs' s := by
  have hregs : loadRegs c rs s.regs = loadRegs c rs' s.regs :=
    regFile_ext fun q => by simp only [get_loadRegs, h.mem_iff]
  have hwritten : s.written.setAll rs true = s.written.setAll rs' true :=
    regFile_ext fun q => by simp only [get_setAll, h.mem_iff]
  rw [loadConfig, loadConfig, hregs, hwritten]

/-- After an event that completes, the rest meets its next state (R65). -/
theorem execAll_cons_of_next {i : Instr} {s u : State} (h : exec i s = .next u) (is : List Instr) :
    execAll (i :: is) s = execAll is u := by
  rw [execAll, h]

/-- Configuration writes in an idle UNINIT block load their registers, and what follows meets the loaded state (R111). -/
theorem execAll_configWrites (c : ConfigWords) (is : List Instr) {rs : List DataReg}
    (hrs : ∀ r ∈ rs, r.isConfig = true) {s : State} (hi : stepInProgress s = false) (hm : s.mode = .uninit) :
    execAll (rs.map c.event ++ is) s = execAll is (loadConfig c rs s) := by
  induction rs generalizing s with
  | nil => rfl
  | cons r rs ih =>
    obtain ⟨hr, hrest⟩ := List.forall_mem_cons.mp hrs
    have hwrite : exec (c.event r) s = .next (writeReg r (c.word r) s) := by
      rw [ConfigWords.event, exec_configWrite hr hi, writeConfig_uninit hm]
    rw [List.map_cons, List.cons_append, execAll_cons_of_next hwrite]
    exact ih hrest (s := writeReg r (c.word r) s) hi hm

/-- CONFIG and INIT, the ten writes in any order, are one INIT on the loaded configuration (R120). -/
theorem execAll_config_init (c : ConfigWords) {order : List Instr} (h : order.Perm (configEvents c)) {s : State}
    (hi : stepInProgress s = false) (hm : s.mode = .uninit) :
    execAll (order ++ [.init]) s = .next (commitInit (loadConfig c configRegs s)) := by
  rw [configEvents_eq_map] at h
  obtain ⟨rs, rfl, hperm⟩ : ∃ rs : List DataReg, order = rs.map c.event ∧ rs.Perm configRegs :=
    (congrFun₂ (List.eq_map_comp_perm _) order configRegs).mpr h
  have hconfig : ∀ r ∈ rs, r.isConfig = true := fun r hr => isConfig_of_mem_configRegs r (hperm.mem_iff.mp hr)
  have hinit : exec .init (loadConfig c configRegs s) = .next (commitInit (loadConfig c configRegs s)) :=
    execInit_ready hi (loadConfig_held c s)
  rw [execAll_configWrites c [.init] hconfig hi hm, loadConfig_perm c hperm,
    execAll_cons_of_next hinit, execAll]

/-- Settles O32: in any order the writes end in one loaded configuration, and INIT forms the rest from its words. -/
theorem configurationOrderIsIrrelevant : Obligations.ConfigurationOrderIsIrrelevant := by
  have hready : ∀ (c : ConfigWords) (s : State), stepInProgress s = false → s.mode = .uninit →
      execAll (configEvents c ++ [.init]) s = .next (commitInit (loadConfig c configRegs s)) :=
    fun c _ => execAll_config_init c (.refl _)
  refine ⟨fun c order s hi hm hperm => ?_, fun c s s' hi hi' hm hm' => ?_⟩
  · rw [execAll_config_init c hperm hi hm, hready c s hi hm]
  · have hword : ∀ q ∈ configRegs, (loadConfig c configRegs s).regs.get q = (loadConfig c configRegs s').regs.get q :=
      fun q hq => by rw [loadConfig_word c s q hq, loadConfig_word c s' q hq]
    exact ⟨_, _, hready c s hi hm, hready c s' hi' hm', rfl, fun r hr => ⟨commitInit_congr hword hr,
      commitInit_holdsConfiguration (loadConfig_held c s) rfl r hr,
      commitInit_holdsConfiguration (loadConfig_held c s') rfl r hr⟩⟩

/-! ## Ticks after INIT (R118, R167) -/

/-- The clamped value of a tick is a function of the registers STEP reads and the sample (R167). -/
theorem tickClamped_congr {x y : RegFile Word} (h : ∀ r ∈ stepReads, x.get r = y.get r) (fb : Sample) :
    tickClamped fb x = tickClamped fb y := by
  simp only [stepReads, List.forall_mem_cons] at h
  simp only [tickClamped, tickAcc_eq, h]

/-- What STEP writes is a function of the registers it reads and the sample (R167). -/
theorem filterStep_congr {x y : RegFile Word} (h : ∀ r ∈ stepReads, x.get r = y.get r) (fb : Sample) :
    ∀ r ∈ stepWrites, (filterStep fb x).get r = (filterStep fb y).get r := by
  have hclamped := tickClamped_congr h fb
  simp only [stepReads, List.forall_mem_cons] at h
  simp [stepWrites, filterStep_get, hclamped, h]

/-- A tick overwrites LAST_OUT and reads it nowhere (R150). -/
theorem filterStep_forgets_lastOut {x y : RegFile Word} (h : ∀ r, r ≠ .lastOut → x.get r = y.get r) (fb : Sample) :
    filterStep fb x = filterStep fb y := by
  have hreads : ∀ r ∈ stepReads, r ≠ .lastOut := by decide
  refine regFile_ext fun r => ?_
  by_cases hw : r ∈ stepWrites
  · exact filterStep_congr (fun q hq => h q (hreads q hq)) fb r hw
  · have hr : r ≠ .lastOut := fun he => hw (he ▸ by decide)
    rw [filterStep_other fb x hw, filterStep_other fb y hw, h r hr]

/-- The state after completed `TICK`s of the given samples (R92, R150). -/
def afterTicks (vs : List Sample) (s : State) : State := vs.foldl (fun u v => tick (driveFb v u)) s

theorem afterTicks_cons (v : Sample) (vs : List Sample) (s : State) :
    afterTicks (v :: vs) s = afterTicks vs (tick (driveFb v s)) := List.foldl_cons

theorem filterRun_cons (v : Sample) (vs : List Sample) (x : RegFile Word) :
    filterRun (v :: vs) x = filterRun vs (filterStep v x) := List.foldl_cons

/-- The registers run through the filter with the driven samples (R151, R186). -/
theorem afterTicks_regs (vs : List Sample) (s : State) : (afterTicks vs s).regs = filterRun vs s.regs :=
  (List.foldl_hom State.regs fun u v => (tick_regs (driveFb v u)).symm).symm

/-- After a tick the ports show LAST_OUT and U0 (R161). -/
theorem afterTicks_ports {vs : List Sample} (h : vs ≠ []) (s : State) :
    (afterTicks vs s).actOut = (afterTicks vs s).regs.get .lastOut ∧
    (afterTicks vs s).dutyQ8 = (afterTicks vs s).regs.get .u0 := by
  obtain rfl | ⟨before, v, rfl⟩ := vs.eq_nil_or_concat'
  · exact absurd rfl h
  · simp [afterTicks]

/-- Events that complete, complete one after the other (R65). -/
theorem execAll_cons_next {i : Instr} {is : List Instr} {s t : State} (h : execAll (i :: is) s = .next t) :
    ∃ u, exec i s = .next u ∧ execAll is u = .next t := by
  rw [execAll] at h
  split at h
  · next u hu => exact ⟨u, hu, h⟩
  · cases h
  · cases h

/-- `TICK`s that complete are ticks of the driven samples (R92). -/
theorem execAll_ticks_next {vs : List Sample} {s t : State} (h : execAll (ticks vs) s = .next t) :
    t = afterTicks vs s := by
  induction vs generalizing s with
  | nil =>
    cases h
    rfl
  | cons v vs ih =>
    obtain ⟨u, hu, h⟩ := execAll_cons_next (i := .sample v) (is := .trig :: ticks vs) h
    cases hu
    obtain ⟨w, hw, h⟩ := execAll_cons_next h
    obtain ⟨-, rfl⟩ := exec_tick_next (.inr rfl) hw
    rw [afterTicks_cons]
    exact ih h

/-- INIT and `TICK`s that complete are ticks of the committed configuration. -/
theorem execAll_init_ticks_next {vs : List Sample} {s t : State} (h : execAll (.init :: ticks vs) s = .next t) :
    t = afterTicks vs (commitInit s) := by
  obtain ⟨u, hu, h⟩ := execAll_cons_next h
  obtain ⟨-, rfl⟩ := exec_init_next hu
  exact execAll_ticks_next h

/-- Settles O43: after INIT the two files differ in LAST_OUT at most, which the first tick overwrites. -/
theorem initForgetsTheHistory : Obligations.InitForgetsTheHistory := by
  intro s s' t t' vs hvs _ _ hconfig h h'
  obtain rfl := execAll_init_ticks_next h
  obtain rfl := execAll_init_ticks_next h'
  have hregs : (afterTicks vs (commitInit s)).regs = (afterTicks vs (commitInit s')).regs := by
    rw [afterTicks_regs, afterTicks_regs]
    cases vs with
    | nil => exact absurd rfl hvs
    | cons v vs =>
      rw [filterRun_cons, filterRun_cons, filterStep_forgets_lastOut (fun r hr => commitInit_congr hconfig hr) v]
  obtain ⟨hact, hduty⟩ := afterTicks_ports hvs (commitInit s)
  obtain ⟨hact', hduty'⟩ := afterTicks_ports hvs (commitInit s')
  rw [hact, hact', hduty, hduty', hregs]
  exact ⟨fun _ => rfl, rfl, rfl⟩

end Sys2Proof.Machine

namespace Sys2Proof.Machine

/-! ## The reference model (R130 to R136) -/

/-- Settles O60: R132's steps run in order; each product reads its slot before the shift overwrites it, so that only the
roundings and the shifted slots are left. -/
theorem referenceRoundsSumsAndProductsOnly : Obligations.ReferenceRoundsSumsAndProductsOnly :=
  fun _ _ _ => rfl

/-- fLast of a stored output: raised to fLower, then truncated toward zero (R132 steps 7 and 8). -/
def refOutput (x : RefState) (u : Rat) : Int := truncRat (if u < x.fLower then x.fLower else u)

/-- The state of a reference model started on `x`'s coefficients and bounds with no history, after the errors `es`, newest
first (R133): the three newest errors and outputs, and fLast from the newest output. -/
def refAfter (x : RefState) (es : List Rat) : RefState :=
  let us := closedRefOutputs x es
  { x with
    fE0 := es.getD 0 0, fE1 := es.getD 1 0, fE2 := es.getD 2 0
    fU0 := us.getD 0 0, fU1 := us.getD 1 0, fU2 := us.getD 2 0
    fLast := us.head?.map (refOutput x) }

/-- An exact tick appends its error to the history: the sum of R132 is the recurrence's, in another order. -/
theorem exactRefStep_refAfter (fb : Int) (x : RefState) (es : List Rat) :
    exactRefStep fb (refAfter x es) = refAfter x ((x.fRef - fb) :: es) := by
  have hsum : ∀ e u0 u1 u2 e0 e1 e2 : Rat,
      0 + x.fB3 * e2 + x.fB2 * e1 + x.fB1 * e0 + x.fB0 * e + x.fA3 * u2 + x.fA2 * u1 + x.fA1 * u0 =
        x.fB0 * e + x.fB1 * e0 + x.fB2 * e1 + x.fB3 * e2 + (x.fA1 * u0 + x.fA2 * u1 + x.fA3 * u2) := by
    intros
    ring
  rw [exactRefStep, referenceRoundsSumsAndProductsOnly]
  simp only [refAfter, closedRefOutputs, id_eq, hsum]
  rfl

/-- The reference model's errors of a list of samples in time order, newest first. -/
def refErrors (ref : Int) (vs : List Int) : List Rat := (vs.map (fun v : Int => (ref : Rat) - (v : Rat))).reverse

theorem refErrors_concat (ref : Int) (vs : List Int) (v : Int) :
    refErrors ref (vs ++ [v]) = ((ref : Rat) - (v : Rat)) :: refErrors ref vs := by
  simp [refErrors]

/-- The obligation takes its differences from a list of samples coerced as a whole; they are the same errors. -/
theorem errors_of_coerced_samples (ref : Int) (vs : List Int) :
    (vs.map (fun v => (ref : Rat) - v)).reverse = refErrors ref vs := by
  simp [refErrors, ← List.map_eq_flatMap]

/-- The reference model run from its initialisation holds the recurrence's history (R131, R133). -/
theorem exactRefRun_refInit (inputs : InitializerInputs) (vs : List Int) :
    exactRefRun vs (refInit inputs) = refAfter (refInit inputs) (refErrors inputs.reference vs) := by
  induction vs using List.reverseRecOn with
  | nil => rfl
  | append_singleton vs v ih =>
    have hlast : exactRefRun (vs ++ [v]) (refInit inputs) = exactRefStep v (exactRefRun vs (refInit inputs)) :=
      List.foldl_concat _ _ v vs
    rw [hlast, ih, exactRefStep_refAfter, refErrors_concat]
    rfl

/-- Settles O55: the run holds the recurrence's history, whose newest output is there because a sample was. -/
theorem referenceFollowsItsRecurrence : Obligations.ReferenceFollowsItsRecurrence := by
  intro inputs vs hvs
  simp only [errors_of_coerced_samples, exactRefRun_refInit]
  obtain rfl | ⟨before, v, rfl⟩ := vs.eq_nil_or_concat'
  · exact absurd rfl hvs
  · rw [refErrors_concat]
    exact ⟨rfl, rfl, rfl, rfl, rfl, rfl, rfl, rfl⟩

/-! ## The two backends side by side (R137, R138) -/

/-- CONFIG, INIT and `TICK`s from reset run the registers that INIT leaves through the filter (R92, R118, R150). -/
theorem configuredRun_regs {c : ConfigWords} {vs : List Sample} {t : State}
    (h : execAll (configEvents c ++ [.init] ++ ticks vs) State.reset = .next t) :
    t.regs = filterRun vs (commitInit (loadConfig c configRegs State.reset)).regs := by
  rw [List.append_assoc, configEvents_eq_map, execAll_configWrites c _ isConfig_of_mem_configRegs rfl rfl] at h
  rw [execAll_init_ticks_next h, afterTicks_regs]

/-- A low-pass that breaks R137's claim: rawB0 = 1/2048, rawA1 = 1/2, reference 0, bounds −10 and 255. -/
def lowPassInputs : InitializerInputs := ⟨1/2048, 0, 0, 0, 1/2, 0, 0, 1, 0, -10, 255⟩

/-- Its ten words. -/
def lowPassWords : ConfigWords :=
  ⟨256#32, 0#32, 0#32, 0#32, 8192#32, 0#32, 0#32, 0#32, 65024#32, 0xFFFFFFF6#32⟩

/-- Its two samples, which leave both engines far from their bounds. -/
def lowPassSamples : List Sample := [1#12, 2047#12]

theorem lowPass_exactlyQuantized : ExactlyQuantized lowPassInputs lowPassWords := by
  unfold ExactlyQuantized
  decide +kernel

/-- The reference's second output, −4095/4096, truncates to 0. -/
theorem lowPass_reference :
    (exactRefRun (lowPassSamples.map (fun v => (v.toNat : Int))) (refInit lowPassInputs)).fLast = some 0 := by
  decide +kernel

/-- The registers that CONFIG and INIT leave (R118). -/
def lowPassInitFile : RegFile Word :=
  { RegFile.fill 0#32 with
    b0 := 256#32, a1 := 8192#32, upper := 65024#32, upperNeg := 0xFFFF0200#32, lower := 0xFFFFFFF6#32 }

/-- The registers after the first tick: its value −1/2048 is floored to −1/256 in U0. -/
def lowPassFirstTickFile : RegFile Word :=
  { lowPassInitFile with e0 := 0xFFFFFFFF#32, u0 := 0xFFFFFFFF#32, lastOut := 0xFFFFFFFF#32 }

/-- The registers after both ticks: the second value, −2051/2048, is floored to −257/256 in U0 and to −2 in LAST_OUT. -/
def lowPassSecondTickFile : RegFile Word :=
  { lowPassFirstTickFile with
    e0 := 0xFFFFF801#32, e1 := 0xFFFFFFFF#32, u0 := 0xFFFFFEFF#32, u1 := 0xFFFFFFFF#32, lastOut := 0xFFFFFFFE#32 }

theorem lowPass_filterRun :
    filterRun lowPassSamples (commitInit (loadConfig lowPassWords configRegs State.reset)).regs = lowPassSecondTickFile := by
  have hinit : (commitInit (loadConfig lowPassWords configRegs State.reset)).regs = lowPassInitFile := by decide
  have hfirst : filterStep 1#12 lowPassInitFile = lowPassFirstTickFile := by decide
  have hsecond : filterStep 2047#12 lowPassFirstTickFile = lowPassSecondTickFile := by decide
  rw [hinit, lowPassSamples, filterRun_cons, hfirst, filterRun_cons, hsecond, filterRun, List.foldl_nil]

theorem lowPass_hardware :
    ∃ t : State, execAll (configEvents lowPassWords ++ [.init] ++ ticks lowPassSamples) State.reset = .next t ∧
      t.regs = lowPassSecondTickFile :=
  ⟨_, rfl, (configuredRun_regs rfl).trans lowPass_filterRun⟩

theorem lowPass_noWrap : NoWrap lowPassSecondTickFile (errorsOf lowPassWords.ref lowPassSamples) := by
  refine ⟨?_, ?_, ?_, ?_, ?_, ?_, trivial⟩ <;> (unfold InWord; decide)

/-- Refutes O56: for rawB0 = 1/2048, rawA1 = 1/2, reference 0 and the samples 1 and 2047, inside every bound and without a
wrap, the reference's second output is 0 and the hardware's −2. One unit is the rounding of a negative output (R138), the
other the fraction that the first tick's floor took off. -/
theorem not_crossBackendOutputsDifferByAtMostOne : ¬ Obligations.CrossBackendOutputsDifferByAtMostOne := by
  intro h
  obtain ⟨t, hrun, hregs⟩ := lowPass_hardware
  have hwrap : NoWrap t.regs (errorsOf lowPassWords.ref lowPassSamples) := hregs ▸ lowPass_noWrap
  have hout : s32 (t.regs.get .lastOut) = -2 := by rw [hregs]; decide
  obtain ⟨hle, -⟩ := h lowPassInputs lowPassWords lowPassSamples t 0 lowPass_exactlyQuantized hrun hwrap lowPass_reference
  omega

end Sys2Proof.Machine

namespace Sys2Proof.Machine

/-! ## STEP and TRIG, outside a STEP window (R150, R162, R163) -/

/-- STEP and TRIG are one guarded operation (R162). -/
theorem exec_stepOrTrig {i : Instr} (hi : i = .step ∨ i = .trig) (s : State) : exec i s = whenIdle s (runStep s) := by
  obtain rfl | rfl := hi
  · rfl
  · rfl

/-- In an idle INITIALIZED block STEP and TRIG complete with one tick (R150, R162). -/
theorem exec_tick_ready {i : Instr} (hi : i = .step ∨ i = .trig) {s : State} (hidle : stepInProgress s = false)
    (hm : s.mode = .initialized) : exec i s = .next (tick s) := by
  rw [exec_stepOrTrig hi, whenIdle_idle hidle, runStep_ready hm]

/-- In an idle UNINIT block STEP and TRIG fault (R163). -/
theorem exec_tick_uninit {i : Instr} (hi : i = .step ∨ i = .trig) {s : State} (hidle : stepInProgress s = false)
    (hm : s.mode = .uninit) : exec i s = .fault .stepBeforeInit := by
  rw [exec_stepOrTrig hi, whenIdle_idle hidle, runStep, hm]

/-- With the invariant, every register STEP reads holds a value in INITIALIZED: LAST_OUT is not among them (R150). -/
theorem Inv.stepInputsHeld {s : State} (h : Inv s) (hm : s.mode = .initialized) : StepInputsHeld s := by
  have hreads : ∀ r ∈ stepReads, r ≠ .lastOut := by decide
  exact fun r hr => h.configuration hm r (hreads r hr)

/-- Settles O33: both entries are the one guarded operation, which faults in UNINIT. -/
theorem stepBeforeInitFaults : Obligations.StepBeforeInitFaults :=
  fun _ hidle hm => ⟨exec_tick_uninit (.inl rfl) hidle hm, exec_tick_uninit (.inr rfl) hidle hm⟩

/-- Settles O51: the next state of both entries is one tick, which reads only registers that hold a value. -/
theorem initializedTickAlwaysCompletes : Obligations.InitializedTickAlwaysCompletes := by
  intro s hidle hm
  refine ⟨tick s, exec_tick_ready (.inl rfl) hidle hm, exec_tick_ready (.inr rfl) hidle hm, tick_doneCount s,
    fun hinv => ?_⟩
  have hheld := hinv.stepInputsHeld hm
  exact ⟨hheld, tick_records_nothing hheld⟩

/-- Settles O42: what a tick writes is a function of its reads, and the ports show two of the registers it writes. -/
theorem stepDependsOnItsInputsAlone : Obligations.StepDependsOnItsInputsAlone := by
  intro s s' t t' h h' hfb hreads
  obtain ⟨-, rfl⟩ := exec_tick_next (.inl rfl) h
  obtain ⟨-, rfl⟩ := exec_tick_next (.inl rfl) h'
  have hwrites := filterStep_congr hreads (captureFb s)
  simp only [tick_regs, tick_actOut, tick_dutyQ8, ← hfb]
  exact ⟨hwrites, hwrites .lastOut (by decide), hwrites .u0 (by decide)⟩

/-! ## One tick of the filter (R152 to R165) -/

/-- The value that reaches the saturation unit, as the statements write it (R164). -/
theorem tickValue_eq (fb : Sample) (x : RegFile Word) : tickValue fb x = tickAcc fb x := (tickAcc_eq fb x).symm

/-- The clamped value, as the statements write it (R158). -/
theorem tickOutput_eq (fb : Sample) (x : RegFile Word) : tickOutput fb x = tickClamped fb x := by
  rw [tickOutput, tickValue_eq]
  rfl

/-- LAST_OUT after a tick, from the U0 it stored (R160). -/
theorem s32_filterStep_lastOut_of_u0 (fb : Sample) (x : RegFile Word) :
    s32 ((filterStep fb x).get .lastOut) =
      floorClamp (asr (s32 ((filterStep fb x).get .u0)) 8) (s32 (x.get .lower)) := by
  rw [s32_filterStep_lastOut, s32_filterStep_u0]

/-- SHIFT_B leaves 21 of a 32-bit accumulator's bits (R157). -/
theorem asr_eleven_bounds {v : Int} (h : InWord v) : -(2 ^ 20) ≤ asr v 11 ∧ asr v 11 ≤ 2 ^ 20 - 1 := by
  unfold InWord at h
  unfold asr
  omega

theorem asr_feedForwardStage_bounds (x : RegFile Word) (fb : Sample) (acc : Int) :
    -(2 ^ 20) ≤ asr (feedForwardStage fb acc x).1 11 ∧ asr (feedForwardStage fb acc x).1 11 ≤ 2 ^ 20 - 1 :=
  asr_eleven_bounds (feedForwardStage_inWord fb acc x)

/-- Settles O34: the next state is one tick; each register by the law of `filterStep` for it. -/
theorem stepPerformsOneTick : Obligations.StepPerformsOneTick := by
  intro s hidle hm
  refine ⟨tick s, exec_tick_ready (.inl rfl) hidle hm, exec_tick_ready (.inr rfl) hidle hm, ?_⟩
  have hother : ∀ r ∉ stepWrites, (tick s).regs.get r = s.regs.get r ∧ (tick s).written.get r = s.written.get r :=
    fun r hr => ⟨tick_other s hr, by rw [tick_held, if_neg hr]⟩
  have hheld : ∀ r ∈ stepWrites, (tick s).written.get r = true := fun r hr => by rw [tick_held, if_pos hr]
  have hdraws : s.fbDriven = true → (tick s).draws = s.draws := fun hd => by rw [tick_draws, drawsAfterCapture, if_pos hd]
  rw [tickOutput_eq, ← floorClamp_eq_max]
  exact ⟨s32_filterStep_e0 _ _, filterStep_e1 _ _, filterStep_e2 _ _, (hother .e3 (by decide)).1,
    s32_filterStep_u0 _ _, filterStep_u1 _ _, filterStep_u2 _ _, s32_filterStep_lastOut _ _, hother, hheld, rfl, rfl, rfl,
    hdraws, tick_records_nothing⟩

/-- Settles O35: the two stage laws. -/
theorem stageSumsWrapOnce : Obligations.StageSumsWrapOnce :=
  fun x fb acc => ⟨feedBackStage_sum x, feedForwardStage_sum fb acc x⟩

/-- Settles O37: the stage-2 sum is a 32-bit value, and SHIFT_B takes 11 bits off it. -/
theorem shiftedAccumulatorFitsItsFormat : Obligations.ShiftedAccumulatorFitsItsFormat := by
  refine ⟨rfl, asr_feedForwardStage_bounds, fun x fb => ?_⟩
  obtain ⟨hlo, hhi⟩ := asr_feedForwardStage_bounds (feedBackStage x).2 fb (asr (feedBackStage x).1 3)
  exact ⟨tickAcc fb x, hlo, hhi, rfl, s32_filterStep_u0 fb x⟩

/-- Settles O38: the stage-2 law with its last product set apart; in the design range the difference is a 13-bit value. -/
theorem newErrorStaysInRange : Obligations.NewErrorStaysInRange := by
  intro x fb
  rw [s32_filterStep_e0]
  refine ⟨rfl, fun acc => by rw [feedForwardStage_sum, wrap32_add_wrap32_left], fun hlo hhi => ?_⟩
  have hfb : fb.toNat < 4096 := fb.isLt
  have hword : InWord (s32 (x.get .ref) - fb.toNat) := by
    unfold InWord
    omega
  rw [wrap32_of_inWord hword]
  omega

/-! ## The saturation unit (R158, R160, R165) -/

/-- The three cases of the symmetric clamp, UPPER tested first (R158). -/
theorem clampHiFirst_of_gt {v lo hi : Int} (h : v > hi) : clampHiFirst v lo hi = hi := if_pos h

theorem clampHiFirst_of_lt {v lo hi : Int} (hhi : ¬ v > hi) (hlo : v < lo) : clampHiFirst v lo hi = lo := by
  rw [clampHiFirst, if_neg hhi, if_pos hlo]

theorem clampHiFirst_of_between {v lo hi : Int} (hhi : ¬ v > hi) (hlo : ¬ v < lo) : clampHiFirst v lo hi = v := by
  rw [clampHiFirst, if_neg hhi, if_neg hlo]

/-- The two cases of the lower-bound-only clamp (R160). -/
theorem floorClamp_of_lt {v lo : Int} (h : v < lo) : floorClamp v lo = lo := if_pos h

theorem floorClamp_of_not_lt {v lo : Int} (h : ¬ v < lo) : floorClamp v lo = v := if_neg h

/-- U0 holds the clamped accumulator (R158). -/
theorem s32_saturate_u0 (x : RegFile Word) {acc : Int} (h : InWord acc) :
    s32 ((saturate acc x).get .u0) = clampHiFirst acc (s32 (x.get .upperNeg)) (s32 (x.get .upper)) := by
  rw [saturate_file, get_set_other _ _ (by decide), get_set_self,
    s32_u32_of_inWord (clampHiFirst_inWord h (s32_inWord _) (s32_inWord _))]

/-- LAST_OUT holds the shifted U0, raised to LOWER (R160). -/
theorem s32_saturate_lastOut (x : RegFile Word) {acc : Int} (h : InWord acc) :
    s32 ((saturate acc x).get .lastOut) =
      floorClamp (asr (s32 ((saturate acc x).get .u0)) 8) (s32 (x.get .lower)) := by
  rw [s32_saturate_u0 x h, saturate_file, get_set_self]
  exact s32_u32_of_inWord
    (floorClamp_inWord (asr_inWord (clampHiFirst_inWord h (s32_inWord _) (s32_inWord _)) _) (s32_inWord _))

/-- The saturation unit writes U0 and LAST_OUT only. -/
theorem saturate_other (acc : Int) (x : RegFile Word) {r : DataReg} (hu : r ≠ .u0) (hl : r ≠ .lastOut) :
    (saturate acc x).get r = x.get r := by
  rw [saturate_file, get_set_other _ _ hl, get_set_other _ _ hu]

/-- Settles O39: the clamp's three cases for U0 and the floor's two for LAST_OUT. -/
theorem saturationUnitClampsAndExtracts : Obligations.SaturationUnitClampsAndExtracts := by
  intro x acc hacc
  have hu0 := s32_saturate_u0 x hacc
  have hout := s32_saturate_lastOut x hacc
  refine ⟨fun hhi => ?_, fun hhi hlo => ?_, fun hhi hlo => ?_, fun hlo => ?_, fun hlo => ?_,
    fun r hu hl => saturate_other acc x hu hl⟩
  · exact s32_injective (hu0.trans (clampHiFirst_of_gt hhi))
  · exact s32_injective (hu0.trans (clampHiFirst_of_lt hhi hlo))
  · exact hu0.trans (clampHiFirst_of_between hhi hlo)
  · exact s32_injective (hout.trans (floorClamp_of_lt hlo))
  · exact hout.trans (floorClamp_of_not_lt hlo)

/-- Settles O40: the shift is monotone, so the bounds of U0 carry to LAST_OUT, which is below neither its value nor LOWER. -/
theorem asymmetricClampBoundsTheOutputs : Obligations.AsymmetricClampBoundsTheOutputs := by
  intro x fb
  have hout := s32_filterStep_lastOut_of_u0 fb x
  refine ⟨fun hle => ?_, ?_, fun hu0 hlower => ?_⟩
  · obtain ⟨hlo, hhi⟩ : s32 (x.get .upperNeg) ≤ s32 ((filterStep fb x).get .u0) ∧
        s32 ((filterStep fb x).get .u0) ≤ s32 (x.get .upper) := by
      rw [s32_filterStep_u0]
      exact clampHiFirst_bounds hle
    have hshift := asr_mono 8 hhi
    refine ⟨hlo, hhi, ?_, fun habove => ?_⟩
    · rw [hout, floorClamp_eq_max]
      exact max_le_max_right _ hshift
    · by_cases hbelow : asr (s32 ((filterStep fb x).get .u0)) 8 < s32 (x.get .lower)
      · rw [floorClamp_of_lt hbelow] at hout
        exact ⟨hout ▸ habove, s32_injective hout⟩
      · rw [floorClamp_of_not_lt hbelow] at hout
        omega
  · rw [hout, floorClamp_eq_max]
    exact le_max_right _ _
  · rw [hu0, hlower] at hout
    rw [hu0]
    exact ⟨rfl, s32_injective hout⟩

/-! ## The order of the terms, and the closed form (R164, R166) -/

/-- The stored outputs of a register file, newest first. -/
def storedOutputs (x : RegFile Word) : List Int := [s32 (x.get .u0), s32 (x.get .u1), s32 (x.get .u2)]

/-- The stored errors of a register file, newest first. -/
def storedErrors (x : RegFile Word) : List Int := [s32 (x.get .e0), s32 (x.get .e1), s32 (x.get .e2)]

/-- The value of a tick from the two exact sums (R152, R164). -/
theorem tickAcc_eq_sums (fb : Sample) (x : RegFile Word) :
    tickAcc fb x = asr (wrap32 (asr (wrap32 (feedBackSum x (storedOutputs x))) 3 +
      feedForwardSum x (wrap32 (s32 (x.get .ref) - fb.toNat) :: storedErrors x))) 11 := by
  rw [tickAcc_eq]
  simp only [feedBackSum, feedForwardSum, storedOutputs, storedErrors, List.getD_cons_zero, List.getD_cons_succ]
  ring_nf

/-- Settles O36: a permutation keeps the exact sum, and the tick's value is made of the two exact sums. -/
theorem tickValueIsIndependentOfTermOrder : Obligations.TickValueIsIndependentOfTermOrder := by
  intro x fb feedBack feedForward hback hforward
  have hbackSum : feedBack.sum = feedBackSum x (storedOutputs x) := by
    rw [hback.sum_eq]
    simp [feedBackSum, storedOutputs, add_assoc]
  have hforwardSum : feedForward.sum =
      feedForwardSum x (wrap32 (s32 (x.get .ref) - fb.toNat) :: storedErrors x) := by
    rw [hforward.sum_eq]
    simp [feedForwardSum, storedErrors, add_assoc]
  rw [s32_filterStep_u0, tickClamped, tickAcc_eq_sums, hbackSum, hforwardSum]

/-- The register file `y` stands where the recurrence of R166 has led from `x` by the errors `es`, newest first: the delay
lines hold the three newest errors and outputs, and what STEP does not write is as in `x`. -/
structure FollowsClosedForm (x : RegFile Word) (es : List Int) (y : RegFile Word) : Prop where
  errors : storedErrors y = [es.getD 0 0, es.getD 1 0, es.getD 2 0]
  outputs : storedOutputs y =
    [(closedOutputs x es).getD 0 0, (closedOutputs x es).getD 1 0, (closedOutputs x es).getD 2 0]
  other : ∀ r ∉ stepWrites, y.get r = x.get r

/-- A zero history is the recurrence's history before the first tick (R118, R166). -/
theorem FollowsClosedForm.of_zero_history {x : RegFile Word} (h : ∀ r ∈ historyRegs, x.get r = 0#32) :
    FollowsClosedForm x [] x := by
  simp only [historyRegs, List.forall_mem_cons] at h
  refine ⟨?_, ?_, fun _ _ => rfl⟩
  · simp [storedErrors, h]
  · simp [storedOutputs, closedOutputs, h]

/-- Where no wrap occurs, none occurred up to the tick before (R166). -/
theorem NoWrap.of_cons {x : RegFile Word} {e : Int} {es : List Int} (h : NoWrap x (e :: es)) : NoWrap x es := by
  obtain ⟨-, -, -, hbefore⟩ := h
  exact hbefore

/-- Where no wrap occurs, the clamped value of a tick is the next output of the recurrence (R166). -/
theorem FollowsClosedForm.tickClamped_eq {x y : RegFile Word} {es : List Int} (h : FollowsClosedForm x es y) {fb : Sample}
    (hwrap : NoWrap x ((s32 (x.get .ref) - fb.toNat) :: es)) :
    tickClamped fb y = (closedOutputs x ((s32 (x.get .ref) - fb.toNat) :: es)).getD 0 0 := by
  obtain ⟨herror, hback, hforward, -⟩ := hwrap
  have hbackSum : feedBackSum y (storedOutputs y) = feedBackSum x (closedOutputs x es) := by
    rw [h.outputs]
    simp [feedBackSum, h.other, stepWrites]
  have hforwardSum : ∀ e : Int, feedForwardSum y (e :: storedErrors y) = feedForwardSum x (e :: es) := by
    intro e
    rw [h.errors]
    simp [feedForwardSum, h.other, stepWrites]
  rw [tickClamped, tickAcc_eq_sums, hbackSum, hforwardSum, h.other .ref (by decide), h.other .upper (by decide),
    h.other .upperNeg (by decide), wrap32_of_inWord herror, wrap32_of_inWord hback, wrap32_of_inWord hforward]
  rfl

/-- A tick pushes its clamped value onto the stored outputs and drops the oldest (R150). -/
theorem storedOutputs_filterStep (fb : Sample) (x : RegFile Word) :
    storedOutputs (filterStep fb x) = tickClamped fb x :: (storedOutputs x).take 2 := by
  simp only [storedOutputs, s32_filterStep_u0, filterStep_u1, filterStep_u2, List.take_succ_cons, List.take_zero]

/-- A tick pushes the new error onto the stored errors and drops the oldest (R150). -/
theorem storedErrors_filterStep (fb : Sample) (x : RegFile Word) :
    storedErrors (filterStep fb x) = wrap32 (s32 (x.get .ref) - fb.toNat) :: (storedErrors x).take 2 := by
  simp only [storedErrors, s32_filterStep_e0, filterStep_e1, filterStep_e2, List.take_succ_cons, List.take_zero]

/-- Where no wrap occurs, a tick takes the recurrence one error further (R166). -/
theorem FollowsClosedForm.after_tick {x y : RegFile Word} {es : List Int} (h : FollowsClosedForm x es y) {fb : Sample}
    (hwrap : NoWrap x ((s32 (x.get .ref) - fb.toNat) :: es)) :
    FollowsClosedForm x ((s32 (x.get .ref) - fb.toNat) :: es) (filterStep fb y) where
  errors := by
    rw [storedErrors_filterStep, h.errors, h.other .ref (by decide), wrap32_of_inWord hwrap.1]
    rfl
  outputs := by
    rw [storedOutputs_filterStep, h.outputs, h.tickClamped_eq hwrap]
    rfl
  other := fun r hr => (filterStep_other fb y hr).trans (h.other r hr)

theorem errorsOf_concat (ref : Word) (vs : List Sample) (v : Sample) :
    errorsOf ref (vs ++ [v]) = (s32 ref - v.toNat) :: errorsOf ref vs := by
  simp [errorsOf]

theorem filterRun_concat (vs : List Sample) (v : Sample) (x : RegFile Word) :
    filterRun (vs ++ [v]) x = filterStep v (filterRun vs x) := List.foldl_concat _ _ v vs

/-- From a zero history, ticks without a wrap follow the recurrence (R166). -/
theorem filterRun_followsClosedForm {x : RegFile Word} (h : ∀ r ∈ historyRegs, x.get r = 0#32) {vs : List Sample}
    (hwrap : NoWrap x (errorsOf (x.get .ref) vs)) :
    FollowsClosedForm x (errorsOf (x.get .ref) vs) (filterRun vs x) := by
  induction vs using List.reverseRecOn with
  | nil => exact .of_zero_history h
  | append_singleton vs v ih =>
    rw [errorsOf_concat] at hwrap ⊢
    rw [filterRun_concat]
    exact (ih hwrap.of_cons).after_tick hwrap

/-- After ticks, LAST_OUT is the shifted U0, raised to LOWER (R160). -/
theorem s32_filterRun_lastOut {vs : List Sample} (h : vs ≠ []) (x : RegFile Word) :
    s32 ((filterRun vs x).get .lastOut) =
      floorClamp (asr (s32 ((filterRun vs x).get .u0)) 8) (s32 ((filterRun vs x).get .lower)) := by
  obtain rfl | ⟨before, v, rfl⟩ := vs.eq_nil_or_concat'
  · exact absurd rfl h
  · rw [filterRun_concat, s32_filterStep_lastOut_of_u0, filterStep_other _ _ (r := .lower) (by decide)]

/-- Unstamped `TICK`s complete in INITIALIZED (R92, R226 item 3). -/
theorem execAll_ticks_ready {s : State} (hnow : s.now = none) (hm : s.mode = .initialized) (vs : List Sample) :
    execAll (ticks vs) s = .next (afterTicks vs s) := by
  induction vs generalizing s with
  | nil => rfl
  | cons v vs ih =>
    have hsample : exec (.sample v) s = .next (driveFb v s) := rfl
    have htrig : exec .trig (driveFb v s) = .next (tick (driveFb v s)) :=
      exec_tick_ready (.inr rfl) (idle_of_unstamped hnow) hm
    have hrest : execAll (ticks vs) (tick (driveFb v s)) = .next (afterTicks vs (tick (driveFb v s))) :=
      ih ((tick_now _).trans hnow) ((tick_mode _).trans hm)
    calc execAll (ticks (v :: vs)) s
        = execAll (.trig :: ticks vs) (driveFb v s) := execAll_cons_of_next hsample _
      _ = execAll (ticks vs) (tick (driveFb v s)) := execAll_cons_of_next htrig _
      _ = .next (afterTicks (v :: vs) s) := by rw [afterTicks_cons, hrest]

/-- Settles O41: the ticks complete, their registers follow the recurrence, and the last one floors its output. -/
theorem ticksFollowTheClosedForm : Obligations.TicksFollowTheClosedForm := by
  intro s vs hvs hnow hm hzero hwrap
  refine ⟨afterTicks vs s, execAll_ticks_ready hnow hm vs, ?_⟩
  have hform := filterRun_followsClosedForm hzero hwrap
  have hout := s32_filterRun_lastOut hvs s.regs
  have herrors := hform.errors
  have houtputs := hform.outputs
  simp only [storedErrors, storedOutputs, List.cons.injEq, and_true] at herrors houtputs
  obtain ⟨he0, he1, he2⟩ := herrors
  obtain ⟨hu0, hu1, hu2⟩ := houtputs
  rw [hu0, hform.other .lower (by decide)] at hout
  rw [afterTicks_regs]
  exact ⟨he0, he1, he2, hu0, hu1, hu2, hout⟩

end Sys2Proof.Machine

namespace Sys2Proof.Machine

/-! ## A read outside a STEP window (R180, R181) -/

/-- A read that finds a value in every register it reads changes the read data alone (R180). -/
theorem exec_rd_held {s : State} (hi : stepInProgress s = false) {slot : Slot}
    (h : ∀ r ∈ slotReads slot, s.written.get r = true) : exec (.rd slot) s = .next (respond (readSlot slot s) s) := by
  have hrd : exec (.rd slot) s = .next (respond (readSlot slot s) (noteReads (slotReads slot) s)) := execRd_idle hi slot
  rw [hrd, noteReads_held h]

/-- A read of a register that holds no value answers its contents and offers it to the record (R22; logs 1 and 23). -/
theorem exec_rd_missing {s : State} (hi : stepInProgress s = false) {r : DataReg} (h : s.written.get r = false) :
    exec (.rd (.data r)) s =
      .next { s with rdata := s.regs.get r, unwrittenRead := s.unwrittenRead <|> some r } := by
  have hfirst : firstUnwritten s [r] = some r := firstUnwritten_append_cons (before := []) (by simp) h []
  calc exec (.rd (.data r)) s
      = .next (respond (s.regs.get r) (noteReads [r] s)) := execRd_idle hi (.data r)
    _ = _ := by rw [noteReads, hfirst]; rfl

theorem shiftsWord_eq : shiftsWord = 0x00080B03#32 := by decide

/-- Settles O19: only a data register is read for its value, so every other slot answers its word and records nothing. -/
theorem readReturnsTheRegister : Obligations.ReadReturnsTheRegister := by
  intro s hi
  have hplain : ∀ slot : Slot, slotReads slot = [] → exec (.rd slot) s = .next { s with rdata := readSlot slot s } :=
    fun slot hnone => exec_rd_held hi (by simp [hnone])
  refine ⟨hplain .cmd rfl, fun off _ => hplain (.reserved off) rfl, hplain .status rfl, ?_, fun r => ⟨fun h => ?_, ?_⟩⟩
  · rw [← shiftsWord_eq]
    exact hplain .shifts rfl
  · exact exec_rd_held (slot := .data r) hi (by simpa [slotReads] using h)
  · exact exec_rd_missing hi

/-- Appending bits multiplies by their weight. -/
theorem append_toNat {m n : Nat} (x : BitVec m) (y : BitVec n) : (x ++ y).toNat = x.toNat * 2 ^ n + y.toNat := by
  rw [BitVec.toNat_append, ← Nat.shiftLeft_add_eq_or_of_lt y.isLt, Nat.shiftLeft_eq]

/-- The STATUS word as a number (R181). -/
theorem statusWord_toNat (s : State) :
    (statusWord s).toNat = s.errc.toNat * 16 + s.err.toNat * 2 + (initBit s.mode).toNat := by
  unfold statusWord
  simp only [append_toNat, BitVec.toNat_ofNat, BitVec.toNat_ofBool]
  omega

theorem initBit_toNat (m : Mode) : (initBit m).toNat = if m = .initialized then 1 else 0 := by
  cases m with
  | uninit => rfl
  | initialized => rfl

/-- Settles O20: RD of STATUS answers the STATUS word, and the word is the sum of its fields' weights. -/
theorem statusReadsItsFields : Obligations.StatusReadsItsFields := by
  refine ⟨fun s hi => ?_, _, rfl, by decide⟩
  obtain ⟨-, -, hstatus, -⟩ := readReturnsTheRegister s hi
  exact ⟨_, hstatus, by rw [statusWord_toNat, initBit_toNat]⟩

/-! ## The writes that touch STATUS alone (R182 to R184) -/

/-- Outside a STEP window a write that only reports an error completes, and leaves what an interface error leaves (R200). -/
theorem whenIdle_setErr {s : State} (hi : stepInProgress s = false) (code : BitVec 4) :
    ∃ t : State, whenIdle s (.next (setErr code s)) = .next t ∧ afterError code s t :=
  ⟨setErr code s, whenIdle_idle hi _, afterError_setErr code s⟩

/-- Outside a STEP window a write to STATUS completes; DATA[1] decides what it does (R182). -/
theorem exec_wrStatus {s : State} (hi : stepInProgress s = false) (data : Word) :
    exec (.wrStatus data) s = .next (if data.getLsbD 1 then clearErr s else s) := whenIdle_idle hi _

/-- Settles O23: the slot at 0x04 is STATUS, and the write clears the report or does nothing. -/
theorem statusWriteClearsTheError : Obligations.StatusWriteClearsTheError := by
  refine fun data => ⟨decode_writeWord (slot := .status) rfl data, fun s hi => ⟨fun hbit => ?_, fun hbit => ?_⟩⟩
  · rw [exec_wrStatus hi, if_pos hbit]
    rfl
  · rw [exec_wrStatus hi, hbit]
    rfl

/-- Settles O24: a DATA word that is neither command is reserved, and the write only reports. -/
theorem reservedCommandIsReported : Obligations.ReservedCommandIsReported := by
  intro data h1 h2
  have hreserved : decodeCommand data = .cmdRsvd data := decodeCommand_reserved (by simp [Instr.wellFormed, h1, h2])
  refine ⟨?_, fun s hi => whenIdle_setErr hi errReservedCommand⟩
  rw [decode_writeWord (slot := .cmd) rfl, decodeWrite, hreserved]

/-- Settles O25: the slot at the offset is read-only or reserved, and the write only reports. -/
theorem readOnlyWriteIsReported : Obligations.ReadOnlyWriteIsReported := by
  refine fun data => ⟨fun slot hro => ⟨?_, fun s hi => whenIdle_setErr hi errReadOnly⟩,
    fun off hres => ⟨decode_writeWord_reserved hres data, fun s hi => whenIdle_setErr hi errReadOnly⟩⟩
  rw [decode_writeWord (slotAt_offset (wellFormed_of_isReadOnly hro)), decodeWrite_of_isReadOnly hro]

/-! ## The first cause (R185) and the FB port (R186) -/

/-- While ERR is 1 a further error changes nothing (R13, R200). -/
theorem setErr_of_err {s : State} (h : s.err = true) (code : BitVec 4) : setErr code s = s := if_pos h

/-- While ERR is 1 a configuration write keeps the report, whether it loads its register or is locked (R111, R185). -/
theorem writeConfig_keeps_report {s : State} (h : s.err = true) (r : DataReg) (data : Word) :
    (writeConfig r data s).err = true ∧ (writeConfig r data s).errc = s.errc := by
  obtain ⟨-, hw⟩ | ⟨-, hw⟩ := writeConfig_cases r data s
  · rw [hw]
    exact ⟨h, rfl⟩
  · rw [hw, setErr_of_err h]
    exact ⟨h, rfl⟩

/-- Settles O27: no event but a write to STATUS and RESET clears the report, and `set_err` does not replace it. -/
theorem firstErrorCauseIsKept : Obligations.FirstErrorCauseIsKept := by
  intro i s t hexec herr
  rcases exec_next hexec with ⟨slot, rfl, -, rfl⟩ | ⟨slot, rfl, -, rfl⟩ | ⟨rfl, -, -, rfl⟩ | ⟨-, -, -, rfl⟩ |
    ⟨data, rfl, -, rfl⟩ | ⟨data, rfl, -, rfl⟩ | ⟨r, data, -, -, -, rfl⟩ | ⟨-, -, rfl⟩ | ⟨v, rfl, rfl⟩ | ⟨hreset, -⟩
  · exact .inl ⟨herr, rfl⟩
  · exact .inl ⟨herr, rfl⟩
  · exact .inl ⟨herr, rfl⟩
  · exact .inl ⟨(tick_err s).trans herr, tick_errc s⟩
  · rw [setErr_of_err herr]
    exact .inl ⟨herr, rfl⟩
  · split_ifs with hbit
    · exact .inr (.inl ⟨data, rfl, hbit⟩)
    · exact .inl ⟨herr, rfl⟩
  · exact .inl (writeConfig_keeps_report herr r data)
  · rw [setErr_of_err herr]
    exact .inl ⟨herr, rfl⟩
  · exact .inl ⟨herr, rfl⟩
  · exact .inr (.inr hreset)

/-- SAMPLE completes in every state, a STEP window included, and drives FB (R186, R226). -/
theorem exec_sample (v : Sample) (s : State) : exec (.sample v) s = .next (driveFb v s) := rfl

theorem captureFb_undriven {s : State} (h : s.fbDriven = false) : captureFb s = Config.freeSample s.draws := by
  simp [captureFb, h]

/-- Settles O28: SAMPLE's only next state is the driven one, and a driven port is captured. -/
theorem sampleDrivesThePort : Obligations.SampleDrivesThePort := by
  refine fun v s => ⟨exec_sample v s, fun t h => ?_, captureFb_undriven⟩
  rw [exec_sample, Host.Outcome.next.injEq] at h
  rw [← h, captureFb_driveFb]

end Sys2Proof.Machine

namespace Sys2Proof.Machine

/-! ## The order of the events of one cycle (R201) -/

/-- An arrival that spells an instruction is of the kinds of that instruction. -/
theorem spells_of_instr {a : Arrival} {i : Instr} (h : inputInstr a.input = .ok i) (kind : Instr → Bool) :
    spells kind a = kind i := by
  simp [spells, h]

/-- Of the kind with a single member are the arrivals that spell that member. -/
theorem spells_beq_iff (j : Instr) (a : Arrival) : spells (· == j) a = true ↔ inputInstr a.input = .ok j := by
  cases hi : inputInstr a.input with
  | error r => simp [spells, hi]
  | ok i => simp [spells, hi]

/-- Among arrivals that all spell events the step finds none to refuse. -/
theorem eventsOf.find_spellsNothing {t : Nat} {group : List Arrival} (h : eventsOf t group) :
    group.find? spellsNothing = none := by
  refine List.find?_eq_none.mpr fun a ha => ?_
  obtain ⟨-, i, hi⟩ := h a ha
  simp [spellsNothing, spells_of_instr hi]

theorem find_reset_eq_none {group : List Arrival} (h : ∀ a ∈ group, inputInstr a.input ≠ .ok .reset) :
    group.find? (spells (· == .reset)) = none :=
  List.find?_eq_none.mpr fun a ha hreset => h a ha ((spells_beq_iff .reset a).mp hreset)

section
variable {t : Nat} {head : Arrival} {group : List Arrival}

/-- A RESET among the events of a cycle is chosen, and the cycle is left behind (R201). -/
theorem arbitrate_of_reset (hev : eventsOf t group) (h : ∃ a ∈ group, inputInstr a.input = .ok .reset)
    (later : List Arrival) :
    ∃ rst ∈ group, inputInstr rst.input = .ok .reset ∧ arbitrate head group later = (rst, later) := by
  obtain ⟨a, ha, hreset⟩ := h
  have hsome : (group.find? (spells (· == .reset))).isSome :=
    List.find?_isSome.mpr ⟨a, ha, (spells_beq_iff .reset a).mpr hreset⟩
  obtain ⟨rst, hfind⟩ := Option.isSome_iff_exists.mp hsome
  refine ⟨rst, List.mem_of_find?_eq_some hfind, (spells_beq_iff .reset rst).mp (List.find?_some hfind), ?_⟩
  simp only [arbitrate, hev.find_spellsNothing, hfind]

/-- Without a RESET, behind a TRIG the first bus access is chosen (R201). -/
theorem arbitrate_of_access (hev : eventsOf t group) (hnr : ∀ a ∈ group, inputInstr a.input ≠ .ok .reset)
    (htrig : inputInstr head.input = .ok .trig) {access : Arrival} (hfind : group.find? (spells isBusEvent) = some access)
    (later : List Arrival) : arbitrate head group later = (access, group.erase access ++ later) := by
  have hhead : spells (· == .trig) head = true := (spells_beq_iff .trig head).mpr htrig
  simp only [arbitrate, hev.find_spellsNothing, find_reset_eq_none hnr, hhead, hfind, if_true]

/-- Without a RESET, an arrival that is not a TRIG with a bus access in its cycle goes first (R201). -/
theorem arbitrate_of_first (hev : eventsOf t group) (hnr : ∀ a ∈ group, inputInstr a.input ≠ .ok .reset)
    (hfirst : inputInstr head.input = .ok .trig → group.find? (spells isBusEvent) = none) (later : List Arrival) :
    arbitrate head group later = (head, group.tail ++ later) := by
  cases hhead : spells (· == .trig) head with
  | false => simp [arbitrate, hev.find_spellsNothing, find_reset_eq_none hnr, hhead]
  | true =>
    have hnone := hfirst ((spells_beq_iff .trig head).mp hhead)
    simp only [arbitrate, hev.find_spellsNothing, find_reset_eq_none hnr, hhead, hnone, if_true]

end

/-- The group that is arbitrated is the whole cycle: all arrivals stamped with it, up to its end. -/
theorem takeNext_cycle {t : Nat} {head : Arrival} {others later : List Arrival}
    (hstamp : ∀ a ∈ head :: others, a.stamp = some t) (hend : cycleEnds t later) :
    takeNext (head :: others ++ later) = some (arbitrate head (head :: others) later) := by
  have hothers : ∀ a ∈ others, (a.stamp == some t) = true := fun a ha => by simp [hstamp a (List.mem_cons_of_mem _ ha)]
  have htake : later.takeWhile (fun b => b.stamp == some t) = [] := by
    cases later with
    | nil => rfl
    | cons b rest => simpa using hend b rfl
  have hdrop : later.dropWhile (fun b => b.stamp == some t) = later := by
    simpa [htake] using List.takeWhile_append_dropWhile (p := fun b : Arrival => b.stamp == some t) (l := later)
  simp [takeNext, hstamp head List.mem_cons_self, List.takeWhile_append_of_pos hothers,
    List.dropWhile_append_of_pos hothers, htake, hdrop]

/-- A step on a cycle in time performs the event of the arrival that is chosen from it (R65, R201). -/
theorem step_cycle {s : State} {t : Nat} {head chosen : Arrival} {others later left : List Arrival} {i : Instr}
    (hend : cycleEnds t later) (hnow : notBefore t s) (hs : s.arrivals = head :: others ++ later)
    (hev : eventsOf t (head :: others)) (hmem : chosen ∈ head :: others)
    (harb : arbitrate head (head :: others) later = (chosen, left)) (hi : inputInstr chosen.input = .ok i) :
    step s = exec i (consume left { s with now := some t }) := by
  have htake : takeNext s.arrivals = some (chosen, left) := by
    rw [hs, takeNext_cycle (fun a ha => (hev a ha).1) hend, harb]
  have harrive : arrive chosen.stamp s = .ok { s with now := some t } := by
    rw [(hev chosen hmem).1, arrive_stamped hnow]
  exact step_of_takeNext htake hi harrive

/-- An event taken with nothing else meets the state one event further. -/
theorem consume_eq_meetsStamped {s : State} {left : List Arrival} (h : s.arrivals.length = left.length + 1) (t : Nat) :
    consume left { s with now := some t } = meetsStamped t left s := by
  simp [consume, meetsStamped, h]

/-- The first bus access stands behind a TRIG and what is no access; taking it out leaves the rest in order (R201). -/
theorem find_and_erase_access {trigger access : Arrival} {between behind : List Arrival} {i : Instr}
    (htrig : inputInstr trigger.input = .ok .trig) (hbetween : ∀ a ∈ between, spells isBusEvent a = false)
    (hi : inputInstr access.input = .ok i) (hbus : isBusEvent i = true) :
    (trigger :: (between ++ access :: behind)).find? (spells isBusEvent) = some access ∧
    (trigger :: (between ++ access :: behind)).erase access = trigger :: (between ++ behind) := by
  have haccess : spells isBusEvent access = true := (spells_of_instr hi isBusEvent).trans hbus
  have htrigger : spells isBusEvent trigger = false := spells_of_instr htrig isBusEvent
  have hne : trigger ≠ access := fun h => by simp [h, haccess] at htrigger
  have hnot : access ∉ between := fun h => by simp [hbetween access h] at haccess
  have hnone : between.find? (spells isBusEvent) = none := List.find?_eq_none.mpr fun a ha => by simp [hbetween a ha]
  constructor
  · simp [htrigger, hnone, haccess]
  · simp [hne, List.erase_append_right _ hnot]

/-- Settles O11: the step takes what the choice among the cycle's arrivals answers, in each of its three cases. -/
theorem sameCycleEventsAreOrdered : Obligations.SameCycleEventsAreOrdered := by
  intro s t later hend hnow
  refine ⟨fun cycle hs hev hreset => ?_, fun trigger access between behind i hs hev hnr htrig hbetween hi hbus => ?_,
    fun first others i hs hev hnr hi hfirst => ?_⟩
  · cases cycle with
    | nil => simp at hreset
    | cons head others =>
      obtain ⟨rst, hmem, hrst, harb⟩ := arbitrate_of_reset (head := head) hev hreset later
      have hlength : s.arrivals.length - later.length = (head :: others).length := by
        rw [hs, List.length_append, Nat.add_sub_cancel]
      rw [step_cycle hend hnow hs hev hmem harb hrst, consume, hlength]
  · obtain ⟨hfind, herase⟩ := find_and_erase_access (behind := behind) htrig hbetween hi hbus
    have harb := arbitrate_of_access hev hnr htrig hfind later
    rw [herase] at harb
    rw [step_cycle hend hnow hs hev (by simp) harb hi, consume_eq_meetsStamped (by simp [hs]; omega)]
  · have hnone : inputInstr first.input = .ok .trig → (first :: others).find? (spells isBusEvent) = none := by
      intro htrig
      obtain rfl : i = .trig := Except.ok.inj (hi.symm.trans htrig)
      refine List.find?_eq_none.mpr fun a ha => ?_
      obtain rfl | ha := List.mem_cons.mp ha
      · simp [spells_of_instr htrig, isBusEvent]
      · simp [hfirst rfl a ha]
    rw [step_cycle hend hnow hs hev List.mem_cons_self (arbitrate_of_first hev hnr hnone later) hi,
      List.tail_cons, consume_eq_meetsStamped (by simp [hs])]

/-! ## The three causes of an error (R200) -/

/-- A report of an error where there was none sets ERR and its code and changes nothing else (R13, R200). -/
theorem setErr_of_no_err {s : State} (h : s.err = false) (code : BitVec 4) :
    setErr code s = { s with err := true, errc := code } :=
  (afterError_setErr code s).1 h

/-- In INITIALIZED, outside a STEP window, a configuration write completes and reports that it is locked (R111, R200). -/
theorem exec_configWrite_locked {r : DataReg} (hr : r.isConfig = true) {s : State} (hi : stepInProgress s = false)
    (hm : s.mode = .initialized) (data : Word) :
    ∃ t : State, exec (decodeDataWrite r data) s = .next t ∧ afterError errLocked s t := by
  refine ⟨setErr errLocked s, ?_, afterError_setErr errLocked s⟩
  rw [exec_configWrite hr hi, writeConfig_initialized hm]

/-- An event that sets ERR reports one of R200's codes and changes nothing else. -/
theorem exec_sets_err {i : Instr} {s t : State} (h : exec i s = .next t) (hs : s.err = false) (ht : t.err = true) :
    ∃ code : BitVec 4, t = { s with err := true, errc := code } ∧
      ((code = errReservedCommand ∧ ∃ data : Word, i = .cmdRsvd data) ∨
       (code = errReadOnly ∧ ((∃ (slot : Slot) (data : Word), i = .wrRo slot data) ∨
         ∃ (off : Offset) (data : Word), i = .wrRsvd off data)) ∨
       (code = errLocked ∧ s.mode = .initialized ∧
         ∃ (r : DataReg) (data : Word), r.isConfig = true ∧ i = decodeDataWrite r data)) := by
  have hchange : t.err ≠ s.err := by simp [hs, ht]
  rcases exec_next h with ⟨slot, -, -, rfl⟩ | ⟨slot, -, -, rfl⟩ | ⟨-, -, -, rfl⟩ | ⟨-, -, -, rfl⟩ | ⟨data, hi, -, rfl⟩ |
    ⟨data, -, -, rfl⟩ | ⟨r, data, hr, hi, -, rfl⟩ | ⟨hi, -, rfl⟩ | ⟨v, -, rfl⟩ | ⟨-, hreset⟩
  · exact absurd rfl hchange
  · exact absurd rfl hchange
  · exact absurd (commitInit_err s) hchange
  · exact absurd (tick_err s) hchange
  · exact ⟨errReservedCommand, setErr_of_no_err hs _, .inl ⟨rfl, data, hi⟩⟩
  · split_ifs at ht
    · cases ht
    · exact absurd (hs.symm.trans ht) (by decide)
  · obtain ⟨-, hw⟩ | ⟨hm, hw⟩ := writeConfig_cases r data s
    · exact absurd (congrArg State.err hw) hchange
    · exact ⟨errLocked, hw.trans (setErr_of_no_err hs _), .inr (.inr ⟨rfl, hm, r, data, hr, hi⟩)⟩
  · exact ⟨errReadOnly, setErr_of_no_err hs _, .inr (.inl ⟨rfl, hi⟩)⟩
  · exact absurd rfl hchange
  · cases hreset
    cases ht

/-- Settles O26: what sets ERR is read off the event's next state, and each cause is a write that only reports. -/
theorem errorsHaveExactlyThreeCauses : Obligations.ErrorsHaveExactlyThreeCauses := by
  refine ⟨fun i s t h hs ht => ?_, fun i s _ hi => ⟨?_, ?_, fun hm => ?_⟩⟩
  · obtain ⟨code, rfl, hcause⟩ := exec_sets_err h hs ht
    exact ⟨rfl, hcause⟩
  · rintro ⟨data, rfl⟩
    exact whenIdle_setErr hi errReservedCommand
  · rintro (⟨slot, data, rfl⟩ | ⟨off, data, rfl⟩)
    · exact whenIdle_setErr hi errReadOnly
    · exact whenIdle_setErr hi errReadOnly
  · rintro ⟨r, data, hr, rfl⟩
    exact exec_configWrite_locked hr hi hm data

/-! ## The faults, and the record of a read without a value (R203) -/

theorem whenIdle_refused {s : State} {k : Result} {r : Refusal} (h : whenIdle s k = .refused r) : k = .refused r := by
  unfold whenIdle at h
  split_ifs at h
  exact h

theorem runStep_ne_refused (s : State) (r : Refusal) : runStep s ≠ .refused r := by
  cases hm : s.mode with
  | uninit => simp [runStep, hm]
  | initialized => simp [runStep_ready hm]

theorem execInit_ne_refused (s : State) (r : Refusal) : execInit s ≠ .refused r := by
  intro h
  have hk := whenIdle_refused h
  split at hk <;> cases hk

/-- Every event of the block has a meaning: `exec` refuses none (R88). -/
theorem exec_ne_refused (i : Instr) (s : State) (r : Refusal) : exec i s ≠ .refused r := by
  intro h
  have written : ∀ t : State, whenIdle s (.next t) ≠ .refused r := fun t hw => by cases whenIdle_refused hw
  cases i with
  | rd _ | sample _ | reset => cases h
  | init => exact execInit_ne_refused s r h
  | step | trig => exact runStep_ne_refused s r (whenIdle_refused h)
  | _ => exact written _ h

/-- A read of a slot finds a register without a value exactly where that register stands (R22, R180). -/
theorem firstUnwritten_slotReads {s : State} {slot : Slot} {r : DataReg} :
    firstUnwritten s (slotReads slot) = some r ↔ slot = .data r ∧ s.written.get r = false := by
  cases slot with
  | data q =>
    simp only [firstUnwritten, slotReads, List.find?_singleton, Option.ite_none_right_eq_some, Bool.not_eq_true',
      Option.some.injEq, Slot.data.injEq]
    exact ⟨fun ⟨hq, hr⟩ => ⟨hr, hr ▸ hq⟩, fun ⟨hr, hq⟩ => ⟨hr ▸ hq, hr⟩⟩
  | cmd | status | shifts | reserved _ => simp [slotReads, firstUnwritten]

/-- An RD makes the record exactly outside a STEP window, of an unwritten register (R22, R226; log 23). -/
theorem exec_rd_records_iff {slot : Slot} {s t : State} (h : exec (.rd slot) s = .next t) (hs : s.unwrittenRead = none)
    (r : DataReg) :
    t.unwrittenRead = some r ↔ slot = .data r ∧ stepInProgress s = false ∧ s.written.get r = false := by
  obtain ⟨hbusy, rfl⟩ | ⟨hidle, rfl⟩ := execRd_next h
  · simp [hs, hbusy]
  · simp [hs, hidle, firstUnwritten_slotReads]

/-- With the invariant no event but RD makes the record: a tick reads only registers that hold a value (R150). -/
theorem exec_records_nothing {i : Instr} {s t : State} (hinv : Inv s) (h : exec i s = .next t)
    (hrd : ∀ slot : Slot, i ≠ .rd slot) : t.unwrittenRead = s.unwrittenRead := by
  by_cases hi : i = .step ∨ i = .trig
  · obtain ⟨hm, rfl⟩ := exec_tick_next hi h
    exact tick_records_nothing (hinv.stepInputsHeld hm)
  · obtain ⟨hstep, htrig⟩ := not_or.mp hi
    obtain ⟨-, -, -, -, -, hrecord, -⟩ := eventsLeaveTheirSurroundings i s t h
    exact hrecord hrd hstep htrig

/-- Settles O52: the faults are `exec_fault`'s, and the record is an RD's or nobody's. -/
theorem faultsAreExactlyTheNamedOnes : Obligations.FaultsAreExactlyTheNamedOnes := by
  refine ⟨exec_ne_refused, fun i s f => exec_fault, fun i s t hinv h hs r => ?_⟩
  by_cases hrd : ∃ slot : Slot, i = .rd slot
  · obtain ⟨slot, rfl⟩ := hrd
    rw [exec_rd_records_iff h hs, Instr.rd.injEq]
  · have hnot : ∀ slot : Slot, i ≠ .rd slot := fun slot hi => hrd ⟨slot, hi⟩
    have hnone : t.unwrittenRead = none := (exec_records_nothing hinv h hnot).trans hs
    simp [hnone, hnot]

end Sys2Proof.Machine

namespace Sys2Proof.Machine

/-! ## RESET, and the state at power-on (R220 to R222) -/

/-- STATUS shows the mode, ERR and ERRC, and nothing else (R33). -/
theorem statusWord_congr {s t : State} (hm : s.mode = t.mode) (he : s.err = t.err) (hc : s.errc = t.errc) :
    statusWord s = statusWord t := by
  simp only [statusWord, hm, he, hc]

/-- What a slot reads as rests on the mode, ERR, ERRC and the data registers alone (R180). -/
theorem readSlot_congr {s t : State} (hm : s.mode = t.mode) (he : s.err = t.err) (hc : s.errc = t.errc)
    (hr : s.regs = t.regs) (slot : Slot) : readSlot slot s = readSlot slot t := by
  cases slot with
  | cmd | shifts | reserved _ => rfl
  | status => exact statusWord_congr hm he hc
  | data r => exact congrArg (RegFile.get · r) hr

/-- STATUS reads 0 at power-on (R221). -/
theorem statusWord_reset : statusWord State.reset = 0#32 := by decide

/-- A RESET clears STATUS (R221). -/
theorem execReset_statusWord {s t : State} (h : execReset s = .next t) : statusWord t = 0#32 := by
  cases h
  exact (statusWord_congr (t := State.reset) rfl rfl rfl).trans statusWord_reset

/-- A RESET that abandons no STEP keeps the DONE count. -/
theorem doneAfterReset_idle {s : State} (h : stepInProgress s = false) : doneAfterReset s = s.doneCount := by
  simp [doneAfterReset, h]

/-- A RESET in the STEP window takes the DONE of the abandoned STEP back (R220; log 9). -/
theorem doneAfterReset_busy {s : State} (h : stepInProgress s = true) : doneAfterReset s = s.doneCount - 1 := if_pos h

/-- A RESET leaves the state at power-on as it is (R222). -/
theorem execReset_reset : execReset State.reset = .next State.reset := rfl

/-- Settles O49: the state at power-on is what a RESET makes of it, and every RESET establishes the invariant. -/
theorem resetStateHasTheInvariant : Obligations.ResetStateHasTheInvariant := inv_execReset execReset_reset

/-- Settles O44: STATUS and the flags are those of power-on, and `doneAfterReset` has its two cases. -/
theorem resetClearsTheBlock : Obligations.ResetClearsTheBlock := by
  intro s
  exact ⟨_, rfl, rfl, execReset_statusWord (s := s) rfl, get_fill false, rfl, rfl, rfl, rfl, shiftsWord_eq, rfl,
    idle_of_no_step rfl, rfl, rfl, rfl, rfl, rfl, rfl, doneAfterReset_idle, doneAfterReset_busy⟩

/-- Settles O45: a RESET gives the fields that a read rests on their values at power-on, whatever the state before. -/
theorem powerOnIsEquivalentToReset : Obligations.PowerOnIsEquivalentToReset := by
  intro s t h
  cases h
  exact ⟨rfl, rfl, rfl, rfl, readSlot_congr rfl rfl rfl rfl⟩

/-! ## The STEP window (R226) -/

/-- In a stamped state the window is open for STEP_CYCLES cycles from the STEP's own (R226). -/
theorem stepInProgress_stamped {s : State} {t start : Nat} (hnow : s.now = some t) (hstart : s.stepStart = some start) :
    stepInProgress s = decide (t < start + Config.stepCycles) := by
  simp only [stepInProgress, hnow, hstart]

/-- A TRIG or a bus write inside the STEP window is a sequencing violation (R226 item 1). -/
theorem exec_overlap {i : Instr} {s : State} (hi : i = .trig ∨ isBusWrite i = true) (hb : stepInProgress s = true) :
    exec i s = .fault .overlap := by
  cases i with
  | rd _ | sample _ | reset => simp [isBusWrite, isBusEvent] at hi
  | _ => exact whenIdle_busy hb _

/-- RD inside the STEP window returns a free value, whatever the slot (R226 item 2). -/
theorem execRd_busy {s : State} (h : stepInProgress s = true) (slot : Slot) :
    execRd slot s = .next (respond (Config.freeWord s.draws) (countDraw s)) := by
  simp [execRd, h]

/-- Settles O53: the window's bounds decide `stepInProgress`, on which every guarded event and every read turns. -/
theorem stepWindowIsExclusive : Obligations.StepWindowIsExclusive := by
  refine ⟨Nat.le_add_left 1 _, fun s t start hnow hstart => ?_, fun s t h => ?_⟩
  · have hwindow := stepInProgress_stamped hnow hstart
    refine ⟨fun hlt => ?_, fun hle => ?_⟩
    · have hbusy : stepInProgress s = true := hwindow.trans (decide_eq_true hlt)
      exact ⟨fun i hi => exec_overlap hi hbusy, execRd_busy hbusy⟩
    · exact hwindow.trans (decide_eq_false (Nat.not_lt.mpr hle))
  · obtain ⟨-, rfl⟩ := exec_tick_next (.inl rfl) h
    exact tick_stepStart s

/-- The one cause of Overlap is a STEP in progress (R226, R203). -/
theorem stepInProgress_of_exec_overlap {i : Instr} {s : State} (h : exec i s = .fault .overlap) :
    stepInProgress s = true := by
  obtain ⟨-, hb, -⟩ | ⟨hf, -⟩ | ⟨r, hf, -⟩ := exec_fault h
  · exact hb
  · cases hf
  · cases hf

/-- Settles O54: an unstamped arrival is refused, or performed in a state with no STEP in progress. -/
theorem unstampedEventNeverOverlaps : Obligations.UnstampedEventNeverOverlaps := by
  rintro s ⟨_, input⟩ rest hs rfl h
  cases hi : inputInstr input with
  | error r =>
    rw [step_refused hs hi] at h
    cases h
  | ok i =>
    rw [step_unstamped hs hi] at h
    have hidle : stepInProgress (meetsUnstamped rest s) = false := idle_of_unstamped rfl
    exact Bool.false_ne_true (hidle.symm.trans (stepInProgress_of_exec_overlap h))

end Sys2Proof.Machine
